-- ==== Sys2Proof/Word.lean ====
section
/-! DEFINITION. The widths the spec gives its values: half and binary32 patterns, request words, text. -/

namespace Sys2Proof

/-- A binary16 pattern (R20 of 10_state.md). -/
abbrev Half := BitVec 16

/-- A binary32 pattern (R27 of 10_state.md). -/
abbrev Single := BitVec 32

/-- A request word, the input port REQ (R36 of 10_state.md, R70 of 30_encoding.md). -/
abbrev ReqWord := BitVec 64

/-- The text output port TXT: twelve ASCII bytes (R36 of 10_state.md). -/
abbrev Text := BitVec 96

end Sys2Proof
end

