-- ==== Sys2Proof/Syntax.lean ====
section
/-! DEFINITION. The instructions: one constructor per row of spec/opcode_table.json, with every operand
field and every ignored field of the request word, and the request word's four fields. -/

namespace Sys2Proof

/-- The operand formats of R71 (30_encoding.md). -/
inductive Format where
  | f32
  | h1
  | h2
  deriving DecidableEq, Repr

/-- The result kinds of R72 (30_encoding.md). -/
inductive ResultKind where
  | h16
  | f32
  | bool
  | int
  | text
  deriving DecidableEq, Repr

/-- The 18 operations in the op code order of R73 and R75 (30_encoding.md). -/
inductive Op where
  | toHalf | toFloat
  | isNan | isInf | isNorm
  | eq | lt | le | gt | ge | cmp | min | max
  | ceil | floor | rint | trunc
  | toHex
  deriving DecidableEq, Repr

/-- The four fields of a request word (R70 of 30_encoding.md). -/
structure Request where
  a   : BitVec 32
  b   : BitVec 16
  op  : BitVec 5
  rsv : BitVec 11
  deriving DecidableEq, Repr

/-- An instruction is one legal request (R70, R71 of 30_encoding.md). The operands come first; `ignHi` and
`ignB` are the ignored fields A[31:16] and B, kept so that no bit of the word is lost. -/
inductive Instr where
  | toHalf (f : Single) (ignB : BitVec 16)
  | toFloat (h : Half) (ignHi ignB : BitVec 16)
  | isNan (h : Half) (ignHi ignB : BitVec 16)
  | isInf (h : Half) (ignHi ignB : BitVec 16)
  | isNorm (h : Half) (ignHi ignB : BitVec 16)
  | eq (a b : Half) (ignHi : BitVec 16)
  | lt (a b : Half) (ignHi : BitVec 16)
  | le (a b : Half) (ignHi : BitVec 16)
  | gt (a b : Half) (ignHi : BitVec 16)
  | ge (a b : Half) (ignHi : BitVec 16)
  | cmp (a b : Half) (ignHi : BitVec 16)
  | min (a b : Half) (ignHi : BitVec 16)
  | max (a b : Half) (ignHi : BitVec 16)
  | ceil (h : Half) (ignHi ignB : BitVec 16)
  | floor (h : Half) (ignHi ignB : BitVec 16)
  | rint (h : Half) (ignHi ignB : BitVec 16)
  | trunc (h : Half) (ignHi ignB : BitVec 16)
  | toHex (h : Half) (ignHi ignB : BitVec 16)
  deriving DecidableEq, Repr

/-- The operation an instruction asks for. -/
def Instr.op : Instr → Op
  | .toHalf .. => .toHalf
  | .toFloat .. => .toFloat
  | .isNan .. => .isNan
  | .isInf .. => .isInf
  | .isNorm .. => .isNorm
  | .eq .. => .eq
  | .lt .. => .lt
  | .le .. => .le
  | .gt .. => .gt
  | .ge .. => .ge
  | .cmp .. => .cmp
  | .min .. => .min
  | .max .. => .max
  | .ceil .. => .ceil
  | .floor .. => .floor
  | .rint .. => .rint
  | .trunc .. => .trunc
  | .toHex .. => .toHex

end Sys2Proof
end

