-- ==== Sys2Proof/Machine/Operands.lean ====
section
/-! DEFINITION. Operand assembly (R71 of 30_encoding.md): where each operand form finds its operands in a
request, and which fields it ignores. Nothing is sign- or zero-extended. -/

namespace Sys2Proof.Machine

/-- Format F32: the binary32 operand is the whole of A. -/
def operandF32 (r : Request) : Single := r.a

/-- Formats H1 and H2: the half operand in A[15:0]. -/
def operandH (r : Request) : Half := r.a.extractLsb' 0 16

/-- Format H2: the second half operand is B. -/
def operandH2 (r : Request) : Half := r.b

/-- The field A[31:16], which formats H1 and H2 ignore. -/
def ignoredHi (r : Request) : BitVec 16 := r.a.extractLsb' 16 16

/-- The field B, which formats F32 and H1 ignore. -/
def ignoredB (r : Request) : BitVec 16 := r.b

/-- The operands of one request, by format. -/
inductive Operands where
  | f32 (f : Single)
  | h1 (h : Half)
  | h2 (a b : Half)
  deriving DecidableEq, Repr

/-- What a format takes from the fields A and B of a request (R71). -/
def assembleOperands (fmt : Format) (r : Request) : Operands :=
  match fmt with
  | .f32 => .f32 (operandF32 r)
  | .h1 => .h1 (operandH r)
  | .h2 => .h2 (operandH r) (operandH2 r)

/-- The operands an instruction carries. -/
def instrOperands : Instr → Operands
  | .toHalf f _ => .f32 f
  | .toFloat h _ _ => .h1 h
  | .isNan h _ _ => .h1 h
  | .isInf h _ _ => .h1 h
  | .isNorm h _ _ => .h1 h
  | .eq a b _ => .h2 a b
  | .lt a b _ => .h2 a b
  | .le a b _ => .h2 a b
  | .gt a b _ => .h2 a b
  | .ge a b _ => .h2 a b
  | .cmp a b _ => .h2 a b
  | .min a b _ => .h2 a b
  | .max a b _ => .h2 a b
  | .ceil h _ _ => .h1 h
  | .floor h _ _ => .h1 h
  | .rint h _ _ => .h1 h
  | .trunc h _ _ => .h1 h
  | .toHex h _ _ => .h1 h

end Sys2Proof.Machine
end

