-- ==== Sys2Proof/Decode.lean ====
section
/-! DEFINITION. The op code table (R75 of 30_encoding.md), the decoder, total on all request words, and the
encoder. -/

namespace Sys2Proof

/-- The op code of an operation (R75 of 30_encoding.md). -/
def Op.code : Op → BitVec 5
  | .toHalf => 0x00#5
  | .toFloat => 0x01#5
  | .isNan => 0x02#5
  | .isInf => 0x03#5
  | .isNorm => 0x04#5
  | .eq => 0x05#5
  | .lt => 0x06#5
  | .le => 0x07#5
  | .gt => 0x08#5
  | .ge => 0x09#5
  | .cmp => 0x0A#5
  | .min => 0x0B#5
  | .max => 0x0C#5
  | .ceil => 0x0D#5
  | .floor => 0x0E#5
  | .rint => 0x0F#5
  | .trunc => 0x10#5
  | .toHex => 0x11#5

/-- The operations in op code order (R73 of 30_encoding.md). -/
def Op.all : List Op :=
  [.toHalf, .toFloat, .isNan, .isInf, .isNorm, .eq, .lt, .le, .gt, .ge, .cmp, .min, .max,
   .ceil, .floor, .rint, .trunc, .toHex]

/-- The operation an op code stands for; 0x12 to 0x1F stand for none (R73, R77, R78 of 30_encoding.md). -/
def Op.ofCode (c : BitVec 5) : Option Op := Op.all.find? (fun o => o.code == c)

/-- The operand format of an operation (R75 of 30_encoding.md). -/
def Op.format : Op → Format
  | .toHalf => .f32
  | .eq | .lt | .le | .gt | .ge | .cmp | .min | .max => .h2
  | .toFloat | .isNan | .isInf | .isNorm | .ceil | .floor | .rint | .trunc | .toHex => .h1

/-- The result kind of an operation (R75 of 30_encoding.md). -/
def Op.result : Op → ResultKind
  | .toHalf | .min | .max | .ceil | .floor | .rint | .trunc => .h16
  | .toFloat => .f32
  | .isNan | .isInf | .isNorm | .eq | .lt | .le | .gt | .ge => .bool
  | .cmp => .int
  | .toHex => .text

/-- The fields of a request word (R70 of 30_encoding.md). -/
def splitRequest (w : ReqWord) : Request :=
  { a := w.extractLsb' 0 32, b := w.extractLsb' 32 16, op := w.extractLsb' 48 5, rsv := w.extractLsb' 53 11 }

/-- The request word with the given fields, RSV on the left (R70, R74 of 30_encoding.md). -/
def joinRequest (r : Request) : ReqWord := r.rsv ++ r.op ++ r.b ++ r.a

/-- The two grounds on which a request word is illegal (R77 of 30_encoding.md). -/
inductive DecodeReject where
  /-- RSV is not 0. -/
  | reservedBits
  /-- OP is 0x12 to 0x1F. -/
  | reservedOp
  deriving DecidableEq, Repr

open Machine in
/-- The instruction that operation `o` makes of a request's fields A and B (R71 of 30_encoding.md). -/
def Op.instr (o : Op) (r : Request) : Instr :=
  match o with
  | .toHalf => .toHalf (operandF32 r) (ignoredB r)
  | .toFloat => .toFloat (operandH r) (ignoredHi r) (ignoredB r)
  | .isNan => .isNan (operandH r) (ignoredHi r) (ignoredB r)
  | .isInf => .isInf (operandH r) (ignoredHi r) (ignoredB r)
  | .isNorm => .isNorm (operandH r) (ignoredHi r) (ignoredB r)
  | .eq => .eq (operandH r) (operandH2 r) (ignoredHi r)
  | .lt => .lt (operandH r) (operandH2 r) (ignoredHi r)
  | .le => .le (operandH r) (operandH2 r) (ignoredHi r)
  | .gt => .gt (operandH r) (operandH2 r) (ignoredHi r)
  | .ge => .ge (operandH r) (operandH2 r) (ignoredHi r)
  | .cmp => .cmp (operandH r) (operandH2 r) (ignoredHi r)
  | .min => .min (operandH r) (operandH2 r) (ignoredHi r)
  | .max => .max (operandH r) (operandH2 r) (ignoredHi r)
  | .ceil => .ceil (operandH r) (ignoredHi r) (ignoredB r)
  | .floor => .floor (operandH r) (ignoredHi r) (ignoredB r)
  | .rint => .rint (operandH r) (ignoredHi r) (ignoredB r)
  | .trunc => .trunc (operandH r) (ignoredHi r) (ignoredB r)
  | .toHex => .toHex (operandH r) (ignoredHi r) (ignoredB r)

/-- The decoder (R70, R76, R77 of 30_encoding.md): total on the 2^64 request words. -/
def decode (w : ReqWord) : Except DecodeReject Instr :=
  let r := splitRequest w
  if r.rsv ≠ 0 then .error .reservedBits
  else match Op.ofCode r.op with
    | some o => .ok (o.instr r)
    | none => .error .reservedOp

/-- The request of an instruction: its op code, its operands and ignored fields, RSV 0 (R70, R71, R75). -/
def Instr.toRequest (i : Instr) : Request :=
  let fields (a : BitVec 32) (b : BitVec 16) : Request := { a := a, b := b, op := i.op.code, rsv := 0 }
  match i with
  | .toHalf f ignB => fields f ignB
  | .toFloat h ignHi ignB => fields (ignHi ++ h) ignB
  | .isNan h ignHi ignB => fields (ignHi ++ h) ignB
  | .isInf h ignHi ignB => fields (ignHi ++ h) ignB
  | .isNorm h ignHi ignB => fields (ignHi ++ h) ignB
  | .eq a b ignHi => fields (ignHi ++ a) b
  | .lt a b ignHi => fields (ignHi ++ a) b
  | .le a b ignHi => fields (ignHi ++ a) b
  | .gt a b ignHi => fields (ignHi ++ a) b
  | .ge a b ignHi => fields (ignHi ++ a) b
  | .cmp a b ignHi => fields (ignHi ++ a) b
  | .min a b ignHi => fields (ignHi ++ a) b
  | .max a b ignHi => fields (ignHi ++ a) b
  | .ceil h ignHi ignB => fields (ignHi ++ h) ignB
  | .floor h ignHi ignB => fields (ignHi ++ h) ignB
  | .rint h ignHi ignB => fields (ignHi ++ h) ignB
  | .trunc h ignHi ignB => fields (ignHi ++ h) ignB
  | .toHex h ignHi ignB => fields (ignHi ++ h) ignB

/-- The request word of an instruction (R70, R74 of 30_encoding.md). -/
def encode (i : Instr) : ReqWord := joinRequest i.toRequest

/-- The 64-bit request word of a table word: the table numbers bits as R8 (00_scope.md) does, bit 0 least
significant, and a request word has no byte order (R51 of 20_memory.md; log entry 16). -/
def tableWord (nbits w : Nat) : ReqWord := BitVec.ofNat 64 (w % 2 ^ nbits)

/-- The instruction the decoder reads from a table word. -/
def decodeTableWord (nbits w : Nat) : Option Instr :=
  match decode (tableWord nbits w) with
  | .ok i => some i
  | .error _ => none

end Sys2Proof
end

