-- ==== Sys2Proof/Config.lean ====
section
/-! DEFINITION. The build parameters of R7 (00_scope.md) and the free constants.

The four parameters a rule reads form the record `Params`, which the machine's State carries, so that
every statement is about every build (log entry 1). -/

namespace Sys2Proof

/-- The values of TOFLOAT_NAN (R114 of 40_codec.md, I2). `other` stands for every further function from
half NaNs to binary32 NaNs, which the type in R7 admits (DEDUCED, log entry 2). -/
inductive ToFloatNan where
  | preserveQuiet
  | canonical
  | other
  deriving DecidableEq, Repr

/-- The values of ROUND_NAN (R176 of 43_rounding.md, I4). -/
inductive RoundNan where
  | pass
  | quiet
  deriving DecidableEq, Repr

/-- The values of HEX_TRIM (R206 of 44_hex_formatter.md, I5). -/
inductive HexTrim where
  | none
  | run2
  deriving DecidableEq, Repr

/-- The build parameters of R7 (00_scope.md). -/
structure Params where
  qnan16     : Half
  toFloatNan : ToFloatNan
  roundNan   : RoundNan
  hexTrim    : HexTrim
  deriving DecidableEq, Repr

/-- The defaults of R7 (00_scope.md). -/
def Params.default : Params :=
  { qnan16 := 0x7e00#16, toFloatNan := .preserveQuiet, roundNan := .pass, hexTrim := .none }

/-- FREE VALUE. What a build with `ToFloatNan.other` gives a half NaN, before it is made sure to be a
NaN (`Machine.toFloatNanOf`); nothing can be proved of it (log entry 2). -/
opaque Config.freeToFloatNan : Half → Single

/-- T_SETTLE, the settling time (R255 of 70_reset_and_hazards.md, I8): a parameter with no default that
no rule reads, so nothing in the model reads it (log entry 14). -/
opaque Config.tSettle : Nat

end Sys2Proof
end

