-- ==== Sys2Proof/Machine/Formats.lean ====
section
/-! DEFINITION. The binary16 and binary32 formats (R20 to R29 of 10_state.md): fields, packing, categories,
exact values, and the named constants. -/

namespace Sys2Proof.Machine

/-- `h.s` (R20 of 10_state.md). -/
def sign16 (h : Half) : Bool := h.getLsbD 15

/-- `h.e` (R20 of 10_state.md). -/
def exp16 (h : Half) : Nat := (h.extractLsb' 10 5).toNat

/-- `h.m` (R20 of 10_state.md). -/
def man16 (h : Half) : Nat := (h.extractLsb' 0 10).toNat

/-- `mag(h) = h[14:0]` (R10 of 00_scope.md). -/
def mag16 (h : Half) : Nat := (h.extractLsb' 0 15).toNat

/-- The half with sign bit `s` and magnitude field `k`: `{s, k[14:0]}` (R8 of 00_scope.md). -/
def pack16 (s : Bool) (k : Nat) : Half := BitVec.ofBool s ++ BitVec.ofNat 15 k

/-- `F.s` (R27 of 10_state.md). -/
def sign32 (f : Single) : Bool := f.getLsbD 31

/-- `F.e` (R27 of 10_state.md). -/
def exp32 (f : Single) : Nat := (f.extractLsb' 23 8).toNat

/-- `F.m` (R27 of 10_state.md). -/
def man32 (f : Single) : Nat := (f.extractLsb' 0 23).toNat

/-- The binary32 pattern with the given fields, `{s, e[7:0], m[22:0]}` (R27 of 10_state.md). -/
def pack32 (s : Bool) (e m : Nat) : Single := BitVec.ofBool s ++ BitVec.ofNat 8 e ++ BitVec.ofNat 23 m

/-- The five categories of R22 and R28 (10_state.md). -/
inductive Category where
  | zero
  | subnormal
  | normalized
  | infinity
  | nan
  deriving DecidableEq, Repr

/-- The category of a half (R22, R23 of 10_state.md). -/
def category16 (h : Half) : Category :=
  if exp16 h = 0 then (if man16 h = 0 then .zero else .subnormal)
  else if exp16 h ≤ 30 then .normalized
  else if man16 h = 0 then .infinity else .nan

/-- The category of a binary32 pattern (R28 of 10_state.md). -/
def category32 (f : Single) : Category :=
  if exp32 f = 0 then (if man32 f = 0 then .zero else .subnormal)
  else if exp32 f ≤ 254 then .normalized
  else if man32 f = 0 then .infinity else .nan

/-- A binary32 NaN: `F.e = 255`, `F.m ≠ 0` (R28 of 10_state.md, R104 of 40_codec.md). -/
def isNan32 (f : Single) : Bool := decide (exp32 f = 255) && decide (man32 f ≠ 0)

/-- `(-1)^s`. -/
def signUnit (s : Bool) : ℚ := if s then -1 else 1

/-- `val16(h)`, the exact value of a finite half (R22, R24 of 10_state.md). For exponent 31 the number it
gives means nothing, and every use says that the half is finite (log entry 8). -/
def val16 (h : Half) : ℚ :=
  signUnit (sign16 h) *
    (if exp16 h = 0 then (man16 h : ℚ) / 1024 * 2 ^ (-14 : ℤ)
     else (1 + (man16 h : ℚ) / 1024) * 2 ^ ((exp16 h : ℤ) - 15))

/-- `val32(F)`, the exact value of a finite binary32 pattern (R28 of 10_state.md; for exponent 255 as `val16`). -/
def val32 (f : Single) : ℚ :=
  signUnit (sign32 f) *
    (if exp32 f = 0 then (man32 f : ℚ) / 2 ^ 23 * 2 ^ (-126 : ℤ)
     else (1 + (man32 f : ℚ) / 2 ^ 23) * 2 ^ ((exp32 f : ℤ) - 127))

/-- The value of a half that is no NaN, with the infinities at the two ends (R22 of 10_state.md). -/
def extVal16 (h : Half) : WithBot (WithTop ℚ) :=
  if exp16 h = 31 then (if sign16 h then ⊥ else ((⊤ : WithTop ℚ) : WithBot (WithTop ℚ)))
  else ((val16 h : WithTop ℚ) : WithBot (WithTop ℚ))

/-- The value of a binary32 pattern that is no NaN, with the infinities at the two ends (R28 of 10_state.md). -/
def extVal32 (f : Single) : WithBot (WithTop ℚ) :=
  if exp32 f = 255 then (if sign32 f then ⊥ else ((⊤ : WithTop ℚ) : WithBot (WithTop ℚ)))
  else ((val32 f : WithTop ℚ) : WithBot (WithTop ℚ))

/-- The value of the magnitude field `k` of a non-negative half. -/
def magValue (k : Nat) : ℚ := val16 (pack16 false k)

/-- `RNE16(x) = k` for `x ≥ 0` (R101, R102 of 40_codec.md): below 65520, `k` is a finite magnitude nearest to
`x`, and even where another is as near; from 65520 on, `k` is 0x7c00. -/
def IsRne16 (x : ℚ) (k : Nat) : Prop :=
  (x < 65520 →
    k ≤ 0x7bff ∧
    (∀ j, j ≤ 0x7bff → |magValue k - x| ≤ |magValue j - x|) ∧
    (∀ j, j ≤ 0x7bff → j ≠ k → |magValue j - x| = |magValue k - x| → k % 2 = 0)) ∧
  (65520 ≤ x → k = 0x7c00)

/-- The integer `val16(h) × 2^24`: the exact value in units of the least half, 2^-24 (R22 of 10_state.md). -/
def scaled16 (h : Half) : Int :=
  let k : Nat := if exp16 h = 0 then man16 h else (1024 + man16 h) * 2 ^ (exp16 h - 1)
  if sign16 h then -(k : Int) else (k : Int)

/-! The named constants (R29 of 10_state.md); `NaN` is the parameter QNAN16. -/

def positiveZero : Half := 0x0000#16
def negativeZero : Half := 0x8000#16
def nanConstant (p : Params) : Half := p.qnan16
def positiveInfinity : Half := 0x7c00#16
def negativeInfinity : Half := 0xfc00#16
def maxValue : Half := 0x7bff#16
def minValue : Half := 0x0001#16
def minNormal : Half := 0x0400#16
def lowestValue : Half := 0xfbff#16

end Sys2Proof.Machine
end

