-- ==== Sys2Proof/Machine/State.lean ====
section
/-! DEFINITION. The machine's state (the ports of R36 of 10_state.md and the build parameters of R7), its
reset value, and the ways a step can stop.

The unit has no registers, no program counter, no flags, no memory and no hidden state (R30 to R35 of
10_state.md, R50 of 20_memory.md): what is here is what is on its ports. -/

namespace Sys2Proof.Machine

/-- The output ports (R36, R38 of 10_state.md). -/
structure Response where
  /-- the numeric or Boolean result -/
  y    : BitVec 32
  /-- the text, character k in bits 8k+7 to 8k -/
  txt  : Text
  /-- the number of characters in `txt` -/
  tlen : BitVec 4
  /-- 1 when the request word is illegal -/
  ill  : BitVec 1
  deriving DecidableEq, Repr

/-- What the machine holds between two steps. -/
structure State where
  /-- the build parameters (R7 of 00_scope.md), changed by no step (R251 of 70_reset_and_hazards.md; log entry 1) -/
  params   : Params
  /-- the input port REQ (R36 of 10_state.md) -/
  req      : ReqWord
  /-- bit i is 1 when REQ[i] is undriven or unknown (R252 of 70_reset_and_hazards.md, I7; log entry 4) -/
  undriven : BitVec 64
  /-- the output ports as they last settled (R36 of 10_state.md; log entry 5) -/
  out      : Response
  deriving DecidableEq, Repr

/-- The ways a step can end in a fault: none. No operation raises an exception and no input traps (R220,
R221 of 60_exceptions.md). -/
inductive Fault
  deriving DecidableEq, Repr

/-- The ways a step can be refused. -/
inductive Refusal where
  /-- An instruction that has no meaning yet; raised by no arm of this model. Safe. -/
  | notModelled (mnemonic : String)
  /-- Raised by `step`, never by an instruction: a bit of REQ is undriven or unknown, and the spec "says
  nothing of the outputs" then (R252 of 70_reset_and_hazards.md; I7, treatment 'refuse'). Safe. -/
  | undrivenRequest
  deriving DecidableEq, Repr

/-- The machine before its first request: default parameters (R7 of 00_scope.md), REQ at 0 and driven
(DESIGN CHOICE, log entries 3 and 4), the outputs at what R76 gives for that word (R251). -/
def State.reset : State :=
  { params := Params.default, req := 0, undriven := 0, out := { y := 0, txt := 0, tlen := 0, ill := 0 } }

end Sys2Proof.Machine
end

