-- ==== Sys2Proof/Machine/Ops.lean ====
section
/-! DEFINITION. The operations every meaning shares: placing a request on the input port, delivering a
result on the output ports (R37 of 10_state.md), and the answer to an illegal word.

No exception is ever taken and none is returned from (R220, R226, R227 of 60_exceptions.md), no register is
written (R30 of 10_state.md) and no memory is accessed (R50 of 20_memory.md), so there is no operation for
any of these. -/

namespace Sys2Proof.Machine

/-- The host presents the fully driven word `w` on REQ (R252 of 70_reset_and_hazards.md). -/
def State.present (s : State) (w : ReqWord) : State := { s with req := w, undriven := 0 }

/-- The outputs settle to `r` (R255 of 70_reset_and_hazards.md); nothing else changes. -/
def State.respond (s : State) (r : Response) : State := { s with out := r }

/-- A result on Y alone: TXT, TLEN and ILL are 0 (R37 of 10_state.md). -/
def deliverWord (y : BitVec 32) : Response := { y := y, txt := 0, tlen := 0, ill := 0 }

/-- A half result: `Y = zext_32(r)` (R37). -/
def deliverHalf (r : Half) : Response := deliverWord (r.setWidth 32)

/-- A binary32 result: `Y = r` (R72 of 30_encoding.md). -/
def deliverSingle (r : Single) : Response := deliverWord r

/-- A Boolean result: `Y = zext_32(b)`, true = 1 (R37). -/
def deliverBool (b : Bool) : Response := deliverWord ((BitVec.ofBool b).setWidth 32)

/-- The CMP result: `Y = sext_32(c)` in two's complement (R37). -/
def deliverInt (c : Int) : Response := deliverWord (BitVec.ofInt 32 c)

/-- `PACK` (R207 of 44_hex_formatter.md): character k in bits 8k+7 to 8k, the rest 0. -/
def packText : List Char → Text
  | [] => 0
  | c :: cs => (packText cs <<< 8) ||| BitVec.ofNat 96 (c.toNat % 256)

/-- A text result: TXT and TLEN, with Y and ILL 0 (R37, R207). -/
def deliverText (cs : List Char) : Response :=
  { y := 0, txt := packText cs, tlen := BitVec.ofNat 4 cs.length, ill := 0 }

/-- The answer to an illegal request word (R77 of 30_encoding.md). -/
def illegalResponse : Response := { y := 0, txt := 0, tlen := 0, ill := 1 }

end Sys2Proof.Machine
end

