-- ==== Sys2Proof/Machine/Codec.lean ====
section
/-! DEFINITION. The codec (40_codec.md): TOHALF and TOFLOAT. -/

namespace Sys2Proof.Machine

/-- Whether rounding adds one to `keep`: the dropped bits exceed half a unit, or are exactly half of one and
`keep` is odd (the line `up = ...` of R106 of 40_codec.md). -/
def roundsUp (keep rem half : Nat) : Bool :=
  decide (rem > half) || (decide (rem = half) && decide (keep % 2 = 1))

/-- TOHALF by the bit-level algorithm of R106 (40_codec.md), which computes R100 to R105 exactly: `sig` is
the 24-bit significand S, `eh` the half's biased exponent, `sh` the number of dropped bits. -/
def toHalf (p : Params) (f : Single) : Half :=
  let s := sign32 f
  let e := exp32 f
  let m := man32 f
  if e = 255 then
    if m ≠ 0 then p.qnan16 else pack16 s 0x7c00
  else if e = 0 then pack16 s 0
  else
    let sig := m + 0x800000
    let eh : Int := (e : Int) - 127 + 15
    if eh ≥ 31 then pack16 s 0x7c00
    else if eh ≥ 1 then
      let keep := sig / 2 ^ 13
      let rem := sig % 2 ^ 13
      let base := (eh - 1).toNat * 2 ^ 10 + keep
      pack16 s (base + if roundsUp keep rem 0x1000 then 1 else 0)
    else
      let sh := (14 - eh).toNat
      if sh ≥ 25 then pack16 s 0
      else
        let keep := sig / 2 ^ sh
        let rem := sig % 2 ^ sh
        pack16 s (keep + if roundsUp keep rem (2 ^ (sh - 1)) then 1 else 0)

/-- The binary32 NaN that the parameter TOFLOAT_NAN gives a half NaN (R114 of 40_codec.md). A build with
`other` gives a free value, held to R114's "always a binary32 NaN" (log entry 2). -/
def toFloatNanOf (p : Params) (h : Half) : Single :=
  match p.toFloatNan with
  | .preserveQuiet => pack32 (sign16 h) 255 (man16 h * 2 ^ 13) ||| 0x00400000#32
  | .canonical => 0x7fc00000#32
  | .other => if isNan32 (Config.freeToFloatNan h) then Config.freeToFloatNan h else 0x7fc00000#32

/-- TOFLOAT (R110 to R114 of 40_codec.md). -/
def toFloat (p : Params) (h : Half) : Single :=
  let s := sign16 h
  let e := exp16 h
  let m := man16 h
  if e = 31 then
    if m ≠ 0 then toFloatNanOf p h else pack32 s 255 0
  else if e = 0 then
    if m = 0 then pack32 s 0 0
    else
      let top := Nat.log2 m
      pack32 s (top + 103) (m * 2 ^ (23 - top) % 2 ^ 23)
  else pack32 s (e + 112) (m * 2 ^ 13)

/-- TOHALF (R100 of 40_codec.md). -/
def execToHalf (f : Single) (s : State) : Host.Outcome State Fault Refusal :=
  .next (s.respond (deliverHalf (toHalf s.params f)))

/-- TOFLOAT (R110 of 40_codec.md). -/
def execToFloat (h : Half) (s : State) : Host.Outcome State Fault Refusal :=
  .next (s.respond (deliverSingle (toFloat s.params h)))

end Sys2Proof.Machine
end

