-- ==== Sys2Proof/Machine/Classifier.lean ====
section
/-! DEFINITION. The classifier (41_classifier.md): ISNAN, ISINF and ISNORM. None of them reads the sign. -/

namespace Sys2Proof.Machine

/-- `isNaN16` (R130 of 41_classifier.md). -/
def isNan16 (h : Half) : Bool := decide (exp16 h = 31) && decide (man16 h ≠ 0)

/-- `isInf16` (R132 of 41_classifier.md). -/
def isInf16 (h : Half) : Bool := decide (exp16 h = 31) && decide (man16 h = 0)

/-- `isNorm16` (R134 of 41_classifier.md; the range is C1's choice in 90_conflicts.md). -/
def isNorm16 (h : Half) : Bool := decide (1 ≤ exp16 h) && decide (exp16 h ≤ 30)

/-- ISNAN (R130 of 41_classifier.md). -/
def execIsNan (h : Half) (s : State) : Host.Outcome State Fault Refusal :=
  .next (s.respond (deliverBool (isNan16 h)))

/-- ISINF (R132 of 41_classifier.md). -/
def execIsInf (h : Half) (s : State) : Host.Outcome State Fault Refusal :=
  .next (s.respond (deliverBool (isInf16 h)))

/-- ISNORM (R134 of 41_classifier.md). -/
def execIsNorm (h : Half) (s : State) : Host.Outcome State Fault Refusal :=
  .next (s.respond (deliverBool (isNorm16 h)))

end Sys2Proof.Machine
end

