-- ==== Sys2Proof/Machine/Comparator.lean ====
section
/-! DEFINITION. The comparator (42_comparator.md): the five IEEE predicates on the numeric order, CMP on the
total order, MIN and MAX on the total order with a NaN for a NaN operand. -/

namespace Sys2Proof.Machine

/-- `nkey`, the numeric key of a half that is no NaN (R140 of 42_comparator.md). -/
def nkey (x : Half) : Int := if sign16 x then -(mag16 x : Int) else (mag16 x : Int)

/-- `tkey`, the total key of any half (R141 of 42_comparator.md). -/
def tkey (x : Half) : Int :=
  if isNan16 x then 0x8000
  else if sign16 x then -(mag16 x : Int) - 1 else (mag16 x : Int)

/-- Neither operand is a NaN: what every IEEE predicate asks first (R142 to R146 of 42_comparator.md). -/
def ordered (a b : Half) : Bool := !isNan16 a && !isNan16 b

/-- `EQ(a, b)` (R142 of 42_comparator.md). -/
def eqHalf (a b : Half) : Bool := ordered a b && decide (nkey a = nkey b)

/-- `LT(a, b)` (R143 of 42_comparator.md). -/
def ltHalf (a b : Half) : Bool := ordered a b && decide (nkey a < nkey b)

/-- `LE(a, b)` (R144 of 42_comparator.md). -/
def leHalf (a b : Half) : Bool := ordered a b && decide (nkey a ≤ nkey b)

/-- `GT(a, b)` (R145 of 42_comparator.md). -/
def gtHalf (a b : Half) : Bool := ordered a b && decide (nkey a > nkey b)

/-- `GE(a, b)` (R146 of 42_comparator.md). -/
def geHalf (a b : Half) : Bool := ordered a b && decide (nkey a ≥ nkey b)

/-- `CMP(a, b)` (R148 of 42_comparator.md). -/
def cmpHalf (a b : Half) : Int :=
  if tkey a < tkey b then -1 else if tkey a > tkey b then 1 else 0

/-- `MIN(a, b)` (R150, R151 of 42_comparator.md). -/
def minHalf (p : Params) (a b : Half) : Half :=
  if isNan16 a || isNan16 b then p.qnan16 else if tkey a ≤ tkey b then a else b

/-- `MAX(a, b)` (R152, R151 of 42_comparator.md). -/
def maxHalf (p : Params) (a b : Half) : Half :=
  if isNan16 a || isNan16 b then p.qnan16 else if tkey a ≥ tkey b then a else b

/-- EQ (R142 of 42_comparator.md). -/
def execEq (a b : Half) (s : State) : Host.Outcome State Fault Refusal :=
  .next (s.respond (deliverBool (eqHalf a b)))

/-- LT (R143 of 42_comparator.md). -/
def execLt (a b : Half) (s : State) : Host.Outcome State Fault Refusal :=
  .next (s.respond (deliverBool (ltHalf a b)))

/-- LE (R144 of 42_comparator.md). -/
def execLe (a b : Half) (s : State) : Host.Outcome State Fault Refusal :=
  .next (s.respond (deliverBool (leHalf a b)))

/-- GT (R145 of 42_comparator.md). -/
def execGt (a b : Half) (s : State) : Host.Outcome State Fault Refusal :=
  .next (s.respond (deliverBool (gtHalf a b)))

/-- GE (R146 of 42_comparator.md). -/
def execGe (a b : Half) (s : State) : Host.Outcome State Fault Refusal :=
  .next (s.respond (deliverBool (geHalf a b)))

/-- CMP (R148 of 42_comparator.md). -/
def execCmp (a b : Half) (s : State) : Host.Outcome State Fault Refusal :=
  .next (s.respond (deliverInt (cmpHalf a b)))

/-- MIN (R150 of 42_comparator.md). -/
def execMin (a b : Half) (s : State) : Host.Outcome State Fault Refusal :=
  .next (s.respond (deliverHalf (minHalf s.params a b)))

/-- MAX (R152 of 42_comparator.md). -/
def execMax (a b : Half) (s : State) : Host.Outcome State Fault Refusal :=
  .next (s.respond (deliverHalf (maxHalf s.params a b)))

end Sys2Proof.Machine
end

