-- ==== Sys2Proof/Machine/Formatter.lean ====
section
/-! DEFINITION. The hex formatter (44_hex_formatter.md): TOHEX. Text is a list of characters until it is
packed on the port. -/

namespace Sys2Proof.Machine

/-- The digit of a number below 16, lower case (R208 of 44_hex_formatter.md). -/
def digitChar (d : Nat) : Char := if d < 10 then Char.ofNat (0x30 + d) else Char.ofNat (0x61 + (d - 10))

/-- The numeral of `n` in a base, with no leading zeros and "0" for 0, for numbers of at most `fuel` digits. -/
def numeral (base : Nat) : (fuel n : Nat) → List Char
  | 0, _ => []
  | fuel + 1, n =>
    if n < base then [digitChar n] else numeral base fuel (n / base) ++ [digitChar (n % base)]

/-- `DIGITS(m)` of a 10-bit mantissa (R204 of 44_hex_formatter.md; C3's choice in 90_conflicts.md). -/
def digits (m : Nat) : List Char := numeral 16 3 m

/-- `DEC(k)` of an exponent, at most two digits (R205 of 44_hex_formatter.md). -/
def dec (k : Int) : List Char := (if k < 0 then ['-'] else []) ++ numeral 10 2 k.natAbs

/-- How many `0` characters a numeral ends in. -/
def trailingZeros (ds : List Char) : Nat := (ds.reverse.takeWhile (· == '0')).length

/-- The mantissa digits under the parameter HEX_TRIM (R206 of 44_hex_formatter.md). -/
def mantissaDigits (p : Params) (m : Nat) : List Char :=
  match p.hexTrim with
  | .none => digits m
  | .run2 =>
    if trailingZeros (digits m) ≥ 2 then (digits m).take ((digits m).length - trailingZeros (digits m))
    else digits m

/-- `TOHEX(h)` (R200 to R202 of 44_hex_formatter.md). -/
def toHexChars (p : Params) (h : Half) : List Char :=
  let e := exp16 h
  let m := man16 h
  let sign := if sign16 h then ['-'] else []
  if e = 31 then
    if m ≠ 0 then ['N', 'a', 'N'] else sign ++ ['I', 'n', 'f', 'i', 'n', 'i', 't', 'y']
  else if e = 0 then
    if m = 0 then sign ++ ['0', 'x', '0', '.', '0', 'p', '0']
    else sign ++ ['0', 'x', '0', '.'] ++ mantissaDigits p m ++ ['p', '-', '1', '4']
  else sign ++ ['0', 'x', '1', '.'] ++ mantissaDigits p m ++ ['p'] ++ dec ((e : Int) - 15)

/-- TOHEX (R200, R207 of 44_hex_formatter.md). -/
def execToHex (h : Half) (s : State) : Host.Outcome State Fault Refusal :=
  .next (s.respond (deliverText (toHexChars s.params h)))

end Sys2Proof.Machine
end

