-- ==== Sys2Proof/Machine/Rounding.lean ====
section
/-! DEFINITION. The rounding unit (43_rounding.md): CEIL, FLOOR, RINT and TRUNC by their exact definitions
(R170 to R174), computed on the integer `val16(h) × 2^24`, and beside them the bit-level algorithm of R175,
which no meaning calls and which a statement compares with them. -/

namespace Sys2Proof.Machine

/-- The four roundings. -/
inductive RoundOp where
  | ceil
  | floor
  | rint
  | trunc
  deriving DecidableEq, Repr

/-- `⌊v / 2^24⌋`. -/
def floorUnits (v : Int) : Int := v / 2 ^ 24

/-- `⌈v / 2^24⌉`. -/
def ceilUnits (v : Int) : Int := -((-v) / 2 ^ 24)

/-- The integer a rounding chooses for the value `v / 2^24` (R171 to R174 of 43_rounding.md). -/
def roundUnits (op : RoundOp) (v : Int) : Int :=
  match op with
  | .ceil => ceilUnits v
  | .floor => floorUnits v
  | .rint =>
    let f := floorUnits v
    let d := v - f * 2 ^ 24
    if 2 * d < 2 ^ 24 then f else if 2 * d > 2 ^ 24 then f + 1 else if f % 2 = 0 then f else f + 1
  | .trunc => if v ≥ 0 then floorUnits v else ceilUnits v

/-- The magnitude field of the half whose value is the integer `n` (R22, R170): the top bit of `n` is the
implicit 1. -/
def magOfNat (n : Nat) : Nat :=
  if n = 0 then 0 else (Nat.log2 n + 15) * 1024 + (n * 1024 / 2 ^ Nat.log2 n - 1024)

/-- The half a NaN becomes under the parameter ROUND_NAN (R176 of 43_rounding.md). -/
def roundNanOf (p : Params) (h : Half) : Half :=
  match p.roundNan with
  | .pass => h
  | .quiet => h ||| 0x0200#16

/-- A rounding of any half (R170 to R174, R176 of 43_rounding.md): the half with the chosen integer as its
value and the operand's sign. -/
def roundHalf (p : Params) (op : RoundOp) (h : Half) : Half :=
  if exp16 h = 31 then (if isNan16 h then roundNanOf p h else h)
  else pack16 (sign16 h) (magOfNat (roundUnits op (scaled16 h)).natAbs)

/-- The bit-level algorithm of R175 (43_rounding.md) for a half that is no NaN. -/
def roundBits (op : RoundOp) (h : Half) : Half :=
  let s := h &&& 0x8000#16
  let neg := sign16 h
  let a := mag16 h
  if a ≥ 0x6400 ∨ a = 0 then h
  else if a < 0x3c00 then
    let up : Bool := (op == .ceil && !neg) || (op == .floor && neg) || (op == .rint && decide (a > 0x3800))
    s ||| (if up then 0x3c00#16 else 0#16)
  else
    let fb := 25 - a / 2 ^ 10
    let frac := a % 2 ^ fb
    let halfb := 2 ^ (fb - 1)
    let up : Bool := (op == .ceil && !neg && decide (frac ≠ 0)) || (op == .floor && neg && decide (frac ≠ 0))
      || (op == .rint && (decide (frac > halfb) || (decide (frac = halfb) && decide (a / 2 ^ fb % 2 = 1))))
    s ||| BitVec.ofNat 16 ((a - frac) + if up then 2 ^ fb else 0)

/-- CEIL (R171 of 43_rounding.md). -/
def execCeil (h : Half) (s : State) : Host.Outcome State Fault Refusal :=
  .next (s.respond (deliverHalf (roundHalf s.params .ceil h)))

/-- FLOOR (R172 of 43_rounding.md). -/
def execFloor (h : Half) (s : State) : Host.Outcome State Fault Refusal :=
  .next (s.respond (deliverHalf (roundHalf s.params .floor h)))

/-- RINT (R173 of 43_rounding.md; ties to even is C2's choice in 90_conflicts.md). -/
def execRint (h : Half) (s : State) : Host.Outcome State Fault Refusal :=
  .next (s.respond (deliverHalf (roundHalf s.params .rint h)))

/-- TRUNC (R174 of 43_rounding.md). -/
def execTrunc (h : Half) (s : State) : Host.Outcome State Fault Refusal :=
  .next (s.respond (deliverHalf (roundHalf s.params .trunc h)))

end Sys2Proof.Machine
end

