-- ==== Sys2Proof/Machine/Dispatch.lean ====
section
/-! DEFINITION. One arm per instruction. The ignored fields of R71 (30_encoding.md) are dropped here. -/

namespace Sys2Proof.Machine

def exec (i : Instr) (s : State) : Host.Outcome State Fault Refusal :=
  match i with
  -- codec
  | .toHalf f _ => Sys2Proof.Machine.execToHalf f s
  | .toFloat h _ _ => Sys2Proof.Machine.execToFloat h s
  -- classifier
  | .isNan h _ _ => Sys2Proof.Machine.execIsNan h s
  | .isInf h _ _ => Sys2Proof.Machine.execIsInf h s
  | .isNorm h _ _ => Sys2Proof.Machine.execIsNorm h s
  -- comparator
  | .eq a b _ => Sys2Proof.Machine.execEq a b s
  | .lt a b _ => Sys2Proof.Machine.execLt a b s
  | .le a b _ => Sys2Proof.Machine.execLe a b s
  | .gt a b _ => Sys2Proof.Machine.execGt a b s
  | .ge a b _ => Sys2Proof.Machine.execGe a b s
  | .cmp a b _ => Sys2Proof.Machine.execCmp a b s
  | .min a b _ => Sys2Proof.Machine.execMin a b s
  | .max a b _ => Sys2Proof.Machine.execMax a b s
  -- rounding unit
  | .ceil h _ _ => Sys2Proof.Machine.execCeil h s
  | .floor h _ _ => Sys2Proof.Machine.execFloor h s
  | .rint h _ _ => Sys2Proof.Machine.execRint h s
  | .trunc h _ _ => Sys2Proof.Machine.execTrunc h s
  -- hex formatter
  | .toHex h _ _ => Sys2Proof.Machine.execToHex h s

end Sys2Proof.Machine
end

