-- ==== Sys2Proof/Machine/Step.lean ====
section
/-! DEFINITION. One step: the unit answers the word on REQ, its outputs settling to the response (R31 of
10_state.md, R76 of 30_encoding.md, R255 of 70_reset_and_hazards.md; log entry 5). -/

namespace Sys2Proof.Machine

/-- The word is refused while a bit of it is undriven (R252, I7); a legal word runs its instruction; an
illegal word gets the answer of R77 (30_encoding.md), which is a next state like any other (R223). -/
def step (s : State) : Host.Outcome State Fault Refusal :=
  if s.undriven ≠ 0 then .refused .undrivenRequest
  else match decode s.req with
    | .ok i => exec i s
    | .error _ => .next (s.respond illegalResponse)

/-- The host presents the table word `w` on REQ: the next step answers it (R31 of 10_state.md; log entry 6). -/
def State.withFetchWord (s : State) (nbits w : Nat) : State := s.present (tableWord nbits w)

end Sys2Proof.Machine
end

