-- ==== Sys2Proof/Machine/Assembler.lean ====
section
/-! DEFINITION. The assembler of R80 and R81 (30_encoding.md): software outside the unit that turns one line of
text into one request word. What R80 leaves open of the text (spaces, letter case, the decimal grammar) is
settled in log entry 12, what R81 leaves open of the decimal operand in log entry 13. -/

namespace Sys2Proof.Machine

/-- The constant names of R29 (10_state.md). -/
inductive ConstName where
  | positiveZero | negativeZero | nan | positiveInfinity | negativeInfinity
  | maxValue | minValue | minNormal | lowestValue
  deriving DecidableEq, Repr

/-- The spelling of a constant (R29 of 10_state.md). -/
def ConstName.text : ConstName → List Char
  | .positiveZero => "POSITIVE_ZERO".toList
  | .negativeZero => "NEGATIVE_ZERO".toList
  | .nan => "NaN".toList
  | .positiveInfinity => "POSITIVE_INFINITY".toList
  | .negativeInfinity => "NEGATIVE_INFINITY".toList
  | .maxValue => "MAX_VALUE".toList
  | .minValue => "MIN_VALUE".toList
  | .minNormal => "MIN_NORMAL".toList
  | .lowestValue => "LOWEST_VALUE".toList

/-- All the constants. -/
def ConstName.all : List ConstName :=
  [.positiveZero, .negativeZero, .nan, .positiveInfinity, .negativeInfinity, .maxValue, .minValue,
   .minNormal, .lowestValue]

/-- The pattern of a constant (R29 of 10_state.md). -/
def ConstName.pattern (p : Params) : ConstName → Half
  | .positiveZero => Machine.positiveZero
  | .negativeZero => Machine.negativeZero
  | .nan => nanConstant p
  | .positiveInfinity => Machine.positiveInfinity
  | .negativeInfinity => Machine.negativeInfinity
  | .maxValue => Machine.maxValue
  | .minValue => Machine.minValue
  | .minNormal => Machine.minNormal
  | .lowestValue => Machine.lowestValue

/-- An operand of a line: a hexadecimal pattern, a constant name (R80), or a decimal number
`(-1)^neg × mant × 10^exp10` written with the suffix `f` (R81). -/
inductive AsmOperand where
  | hex (n : Nat)
  | const (c : ConstName)
  | decimal (neg : Bool) (mant : Nat) (exp10 : Int)
  deriving DecidableEq, Repr

/-- One line: the operation and its operands (R80). -/
structure AsmLine where
  op       : Op
  operands : List AsmOperand
  deriving DecidableEq, Repr

/-- The mnemonic of an operation (R75 of 30_encoding.md). -/
def mnemonicText : Op → List Char
  | .toHalf => "TOHALF".toList
  | .toFloat => "TOFLOAT".toList
  | .isNan => "ISNAN".toList
  | .isInf => "ISINF".toList
  | .isNorm => "ISNORM".toList
  | .eq => "EQ".toList
  | .lt => "LT".toList
  | .le => "LE".toList
  | .gt => "GT".toList
  | .ge => "GE".toList
  | .cmp => "CMP".toList
  | .min => "MIN".toList
  | .max => "MAX".toList
  | .ceil => "CEIL".toList
  | .floor => "FLOOR".toList
  | .rint => "RINT".toList
  | .trunc => "TRUNC".toList
  | .toHex => "TOHEX".toList

/-- `⌊log2 (num / den)⌋` for positive `num`, `den`. -/
def floorLog2 (num den : Nat) : Int :=
  let d : Int := (Nat.log2 num : Int) - (Nat.log2 den : Int)
  if den * 2 ^ d.toNat ≤ num * 2 ^ (-d).toNat then d else d - 1

/-- The binary32 pattern nearest to `(-1)^neg × num / den`, ties to even (R81 of 30_encoding.md, G8): `q` is
the exponent of the last kept bit. A value that rounds past the largest finite pattern gives infinity
(PRESUMED, log entry 13). -/
def nearestSingle (neg : Bool) (num den : Nat) : Single :=
  if num = 0 then pack32 neg 0 0
  else
    let q : Int := max (-149) (floorLog2 num den - 23)
    let n := num * 2 ^ (-q).toNat
    let d := den * 2 ^ q.toNat
    let keep := n / d
    let rem := n % d
    let up : Bool := decide (2 * rem > d) || (decide (2 * rem = d) && decide (keep % 2 = 1))
    let mag := (q + 149).toNat * 2 ^ 23 + keep + if up then 1 else 0
    let mag := if mag ≥ 0x7f800000 then 0x7f800000 else mag
    BitVec.ofBool neg ++ BitVec.ofNat 31 mag

/-- The value of an operand of format F32 (R80, R81): a pattern of at most 32 bits, a constant's pattern, or
the binary32 pattern nearest to a decimal number. -/
def operandValue32 (p : Params) : AsmOperand → Option (BitVec 32)
  | .hex n => if n < 2 ^ 32 then some (BitVec.ofNat 32 n) else none
  | .const c => some ((c.pattern p).setWidth 32)
  | .decimal neg mant exp10 => some (nearestSingle neg (mant * 10 ^ exp10.toNat) (10 ^ (-exp10).toNat))

/-- The value of a half operand (R80): a pattern of at most 16 bits or a constant's; a decimal number is an
operand of TOHALF only (R81). -/
def operandValue16 (p : Params) : AsmOperand → Option Half
  | .hex n => if n < 2 ^ 16 then some (BitVec.ofNat 16 n) else none
  | .const c => some (c.pattern p)
  | .decimal .. => none

/-- The instruction of a line, every ignored field 0 (R80 of 30_encoding.md). -/
def assemble (p : Params) (l : AsmLine) : Option Instr :=
  let instr (a : BitVec 32) (b : BitVec 16) : Instr := l.op.instr { a := a, b := b, op := l.op.code, rsv := 0 }
  match l.op.format, l.operands with
  | .f32, [x] => (operandValue32 p x).map fun v => instr v 0
  | .h1, [x] => (operandValue16 p x).map fun v => instr (v.setWidth 32) 0
  | .h2, [x, y] =>
    match operandValue16 p x, operandValue16 p y with
    | some v, some w => some (instr (v.setWidth 32) w)
    | _, _ => none
  | _, _ => none

/-- The value of a decimal digit. -/
def decDigit (c : Char) : Option Nat :=
  if 0x30 ≤ c.toNat ∧ c.toNat ≤ 0x39 then some (c.toNat - 0x30) else none

/-- The value of a hexadecimal digit, of either case. -/
def hexDigit (c : Char) : Option Nat :=
  if 0x61 ≤ c.toNat ∧ c.toNat ≤ 0x66 then some (c.toNat - 0x61 + 10)
  else if 0x41 ≤ c.toNat ∧ c.toNat ≤ 0x46 then some (c.toNat - 0x41 + 10)
  else decDigit c

/-- The number a non-empty digit string denotes in a base. -/
def readNumber (base : Nat) (digit : Char → Option Nat) (cs : List Char) : Option Nat :=
  if cs.isEmpty then none
  else cs.foldl (fun acc c => match acc, digit c with
    | some n, some d => some (n * base + d)
    | _, _ => none) (some 0)

/-- The pieces of a text between the characters equal to `c`. -/
def splitAtChar (c : Char) : List Char → List (List Char)
  | [] => [[]]
  | x :: xs =>
    if x = c then [] :: splitAtChar c xs
    else match splitAtChar c xs with
      | [] => [[x]]
      | piece :: rest => (x :: piece) :: rest

/-- A space or a tab. -/
def isBlank (c : Char) : Bool := c == ' ' || c == '\t'

/-- A text without the blanks at its ends. -/
def trimBlanks (cs : List Char) : List Char := ((cs.dropWhile isBlank).reverse.dropWhile isBlank).reverse

/-- A whole or signed decimal exponent: `9`, `-9`, `+9`. -/
def readExponent : List Char → Option Int
  | '-' :: cs => (readNumber 10 decDigit cs).map fun n => -(n : Int)
  | '+' :: cs => (readNumber 10 decDigit cs).map fun n => (n : Int)
  | cs => (readNumber 10 decDigit cs).map fun n => (n : Int)

/-- A decimal number without sign and suffix: digits, an optional fraction, an optional exponent. -/
def readDecimal (neg : Bool) (cs : List Char) : Option AsmOperand :=
  let make (digits : List Char) (places : Nat) (e : Int) : Option AsmOperand :=
    (readNumber 10 decDigit digits).map fun n => .decimal neg n (e - places)
  let mantissa (m : List Char) (e : Int) : Option AsmOperand :=
    match splitAtChar '.' m with
    | [w] => make w 0 e
    | [w, f] => if w.isEmpty || f.isEmpty then none else make (w ++ f) f.length e
    | _ => none
  match splitAtChar 'e' cs with
  | [m] => mantissa m 0
  | [m, x] => match readExponent x with
    | some e => mantissa m e
    | none => none
  | _ => none

/-- An operand of R80 or R81. -/
def readOperand (cs : List Char) : Option AsmOperand :=
  match cs with
  | '0' :: 'x' :: ds => (readNumber 16 hexDigit ds).map .hex
  | _ =>
    match ConstName.all.find? (fun c => c.text == cs) with
    | some c => some (.const c)
    | none =>
      match cs.getLast?, cs with
      | some 'f', '-' :: ds => readDecimal true ds.dropLast
      | some 'f', ds => readDecimal false ds.dropLast
      | _, _ => none

/-- One line of the syntax of R80: a mnemonic, its operands separated by commas, an optional comment. -/
def readLine (line : List Char) : Option AsmLine :=
  let body := trimBlanks (line.takeWhile (· != ';'))
  let name := body.takeWhile (fun c => !isBlank c)
  match Op.all.find? (fun o => mnemonicText o == name) with
  | none => none
  | some o =>
    let rec readAll : List (List Char) → Option (List AsmOperand)
      | [] => some []
      | c :: cs => match readOperand (trimBlanks c), readAll cs with
        | some x, some xs => some (x :: xs)
        | _, _ => none
    (readAll (splitAtChar ',' (body.drop name.length))).map fun xs => { op := o, operands := xs }

/-- The request word of a line (R80, R81 of 30_encoding.md). -/
def assembleLine (p : Params) (line : List Char) : Option ReqWord :=
  match readLine line with
  | some l => (assemble p l).map encode
  | none => none

end Sys2Proof.Machine
end

