-- ==== Sys2Proof/Machine/Unit.lean ====
section
/-! DEFINITION. The unit as the spec's own total function from request words to responses (R38 of 10_state.md),
written from the case table of R76 (30_encoding.md) on op code numbers. `step` does not call it: a statement
says that the two agree. -/

namespace Sys2Proof.Machine

/-- `PRED(OP, h)` for op codes 0x02 to 0x04 (R76, R75 of 30_encoding.md). -/
def pred1 (op : Nat) (h : Half) : Bool :=
  if op = 0x02 then isNan16 h else if op = 0x03 then isInf16 h else isNorm16 h

/-- `PRED(OP, a, b)` for op codes 0x05 to 0x09 (R76, R75). -/
def pred2 (op : Nat) (a b : Half) : Bool :=
  if op = 0x05 then eqHalf a b
  else if op = 0x06 then ltHalf a b
  else if op = 0x07 then leHalf a b
  else if op = 0x08 then gtHalf a b
  else geHalf a b

/-- `MINMAX(OP, a, b)` for op codes 0x0B and 0x0C (R76, R75). -/
def minMax (p : Params) (op : Nat) (a b : Half) : Half :=
  if op = 0x0B then minHalf p a b else maxHalf p a b

/-- `ROUND(OP, h)` for op codes 0x0D to 0x10 (R76, R75). -/
def roundOp (p : Params) (op : Nat) (h : Half) : Half :=
  if op = 0x0D then roundHalf p .ceil h
  else if op = 0x0E then roundHalf p .floor h
  else if op = 0x0F then roundHalf p .rint h
  else roundHalf p .trunc h

/-- `unit(REQ)` (R76 of 30_encoding.md), with the build parameters as an argument (R7 of 00_scope.md). -/
def unit (p : Params) (w : ReqWord) : Response :=
  let a : Single := w.extractLsb' 0 32
  let h : Half := w.extractLsb' 0 16
  let b : Half := w.extractLsb' 32 16
  let op := (w.extractLsb' 48 5).toNat
  let rsv := (w.extractLsb' 53 11).toNat
  if rsv ≠ 0 ∨ op ≥ 0x12 then { y := 0, txt := 0, tlen := 0, ill := 1 }
  else if op = 0x00 then deliverHalf (toHalf p a)
  else if op = 0x01 then deliverSingle (toFloat p h)
  else if op ≤ 0x04 then deliverBool (pred1 op h)
  else if op ≤ 0x09 then deliverBool (pred2 op h b)
  else if op = 0x0A then deliverInt (cmpHalf h b)
  else if op ≤ 0x0C then deliverHalf (minMax p op h b)
  else if op ≤ 0x10 then deliverHalf (roundOp p op h)
  else deliverText (toHexChars p h)

end Sys2Proof.Machine
end

