-- ==== Sys2Proof/Machine/Flags.lean ====
section
/-! DEFINITION. The one flag of the unit: the output ILL, computed afresh from each request word (R77 of
30_encoding.md, R223 of 60_exceptions.md). The unit has no status flags, no condition codes and no IEEE
exception flags, and no operation writes one (R32 of 10_state.md). -/

namespace Sys2Proof.Machine

/-- RSV is 0 (R77 of 30_encoding.md). -/
def rsvIsZero (r : Request) : Bool := r.rsv == 0

/-- OP is one of the assigned op codes 0x00 to 0x11 (R73, R77 of 30_encoding.md). -/
def opIsAssigned (r : Request) : Bool := decide (r.op.toNat < 0x12)

/-- A request is legal: neither of R77's two grounds holds. -/
def legalRequest (r : Request) : Bool := rsvIsZero r && opIsAssigned r

/-- The value of the output ILL for a request (R36 of 10_state.md, R77 of 30_encoding.md). -/
def illFlag (r : Request) : BitVec 1 := if legalRequest r then 0 else 1

end Sys2Proof.Machine
end

