-- ==== Sys2Proof/WellFormed.lean ====
section
/-! DEFINITION. Well-formedness: an instruction is well formed when the request it stands for is legal (R77 of
30_encoding.md), and a set of build parameters when QNAN16 is a NaN (R7 of 00_scope.md). -/

namespace Sys2Proof

/-- The request an instruction stands for is legal. Every operand pattern is valid input (R21 of 10_state.md,
R220 of 60_exceptions.md) and every ignored field may hold any value (R71), so nothing else is asked. -/
def Instr.wellFormed (i : Instr) : Bool := Machine.legalRequest i.toRequest

/-- QNAN16 is a "16-bit pattern with isNaN true" (R7 of 00_scope.md). -/
def Params.wellFormed (p : Params) : Bool := Machine.isNan16 p.qnan16

end Sys2Proof
end

