-- ==== Sys2Proof/Safety.lean ====
section
/-! DEFINITION. What a safe run is: the invariants that claims use. -/

namespace Sys2Proof.Machine

/-- Character `k` of a text port: `TXT[8k+7:8k]` (R36 of 10_state.md). -/
def charAt (t : Text) (k : Nat) : BitVec 8 := t.extractLsb' (8 * k) 8

/-- The shape R37 (10_state.md), R77 (30_encoding.md), R203 and R207 (44_hex_formatter.md) give every response:
an illegal word's answer shows nothing else; a text answer has 3 to 12 characters and Y 0; the bytes of TXT
from TLEN on are 0. -/
def Response.Shaped (r : Response) : Prop :=
  (r.ill = 1 → r.y = 0 ∧ r.txt = 0 ∧ r.tlen = 0) ∧
  (r.tlen ≠ 0 → r.y = 0 ∧ 3 ≤ r.tlen.toNat ∧ r.tlen.toNat ≤ 12) ∧
  (∀ k, r.tlen.toNat ≤ k → charAt r.txt k = 0)

/-- The invariant of the machine: QNAN16 is a NaN (R7 of 00_scope.md) and the outputs have the shape of a
response. -/
def State.Inv (s : State) : Prop := s.params.wellFormed = true ∧ s.out.Shaped

/-- The outputs are what R76 (30_encoding.md) gives for the word on REQ, "the function of the current REQ"
(R251 of 70_reset_and_hazards.md). -/
def State.Settled (s : State) : Prop := s.undriven = 0 ∧ s.out = unit s.params s.req

/-- `r` is the half with the integer value `n` and the sign bit of `h` (R170 of 43_rounding.md). -/
def RoundsTo (h : Half) (n : ℤ) (r : Half) : Prop := exp16 r ≠ 31 ∧ sign16 r = sign16 h ∧ val16 r = n

/-- The integer RINT chooses for the value `v` (R173 of 43_rounding.md). -/
def rintOf (v : ℚ) : ℤ :=
  if v - ⌊v⌋ < 1 / 2 then ⌊v⌋
  else if v - ⌊v⌋ > 1 / 2 then ⌊v⌋ + 1
  else if ⌊v⌋ % 2 = 0 then ⌊v⌋ else ⌊v⌋ + 1

/-- The integer TRUNC chooses for the value `v` (R174 of 43_rounding.md). -/
def truncOf (v : ℚ) : ℤ := if v ≥ 0 then ⌊v⌋ else ⌈v⌉

end Sys2Proof.Machine
end

