-- ==== Sys2Proof/Certificates/Slice0/Obligations.lean ====
section
/-! DEFINITION. The statements for the provers.

`{ s with out := … }` is the frame of every instruction: the build parameters, the request word and its
undriven bits stay, and the outputs are exactly the ones named. There is no other state (R30 to R35 of
10_state.md, R50 of 20_memory.md). -/

open Sys2Proof Sys2Proof.Machine

/-! ### Encoding -/

/-- R70, R71, R75 (30_encoding.md): no operand bit and no ignored bit is lost in a request word. -/
def Obligations.DecodeOfEncodeIsTheInstruction : Prop := ∀ i : Instr, decode (encode i) = .ok i

/-- R70, R75 (30_encoding.md): a legal word is the word of the instruction it decodes to. -/
def Obligations.EncodeOfDecodeIsTheWord : Prop := ∀ (w : ReqWord) (i : Instr), decode w = .ok i → encode i = w

/-- R74 (30_encoding.md): the decoder looks at the top sixteen bits alone, and finds the operation there
whose op code, shifted by 48, they are. -/
def Obligations.DecoderMatchesTheTopSixteenBits : Prop :=
  ∀ (w : ReqWord) (o : Op),
    (∃ i, decode w = .ok i ∧ i.op = o) ↔ w &&& 0xFFFF000000000000#64 = o.code.setWidth 64 <<< 48

/-- R82 (30_encoding.md): the assembler's four encoding examples, and what those words decode to. -/
def Obligations.EncodingExamplesOfTheSpec : Prop :=
  assembleLine Params.default "TOHALF 0x3f800000".toList = some 0x000000003F800000#64 ∧
  assembleLine Params.default "TOFLOAT 0x3c00".toList = some 0x0001000000003C00#64 ∧
  assembleLine Params.default "CMP 0x0000, 0x8000".toList = some 0x000A800000000000#64 ∧
  assembleLine Params.default "TOHEX MAX_VALUE".toList = some 0x0011000000007BFF#64 ∧
  decode 0x000000003F800000#64 = .ok (.toHalf 0x3F800000#32 0) ∧
  decode 0x0001000000003C00#64 = .ok (.toFloat 0x3C00#16 0 0) ∧
  decode 0x000A800000000000#64 = .ok (.cmp 0x0000#16 0x8000#16 0) ∧
  decode 0x0011000000007BFF#64 = .ok (.toHex 0x7BFF#16 0 0)

/-- R80 (30_encoding.md): the word of a line has RSV 0, the operation's op code, its operands where R71 looks
for them, and every ignored field 0. The text grammar in front of it is the model's (log entry 12). -/
def Obligations.AssembledWordsHaveZeroIgnoredFields : Prop :=
  ∀ (p : Params) (o : Op) (x y : AsmOperand),
    (∀ v, o.format = .f32 → operandValue32 p x = some v →
      ∃ i, assemble p { op := o, operands := [x] } = some i ∧
        encode i = (0#11 ++ o.code ++ 0#16 ++ v : BitVec 64)) ∧
    (∀ v, o.format = .h1 → operandValue16 p x = some v →
      ∃ i, assemble p { op := o, operands := [x] } = some i ∧
        encode i = (0#11 ++ o.code ++ 0#16 ++ 0#16 ++ v : BitVec 64)) ∧
    (∀ v w, o.format = .h2 → operandValue16 p x = some v → operandValue16 p y = some w →
      ∃ i, assemble p { op := o, operands := [x, y] } = some i ∧
        encode i = (0#11 ++ o.code ++ w ++ 0#16 ++ v : BitVec 64))

/-- R71 (30_encoding.md): which operations have which format, where a format's operands stand in the word,
and that an instruction's effect depends on its operation and operands alone, whatever the ignored fields
hold. -/
def Obligations.OperandsAreTheNamedFieldsAndTheRestIsIgnored : Prop :=
  (∀ o : Op,
    (o.format = .f32 ↔ o = .toHalf) ∧
    (o.format = .h1 ↔ o ∈ [Op.toFloat, .isNan, .isInf, .isNorm, .ceil, .floor, .rint, .trunc, .toHex]) ∧
    (o.format = .h2 ↔ o ∈ [Op.eq, .lt, .le, .gt, .ge, .cmp, .min, .max])) ∧
  (∀ (w : ReqWord) (i : Instr), decode w = .ok i →
    (i.op.format = .f32 → instrOperands i = .f32 (w.extractLsb' 0 32)) ∧
    (i.op.format = .h1 → instrOperands i = .h1 (w.extractLsb' 0 16)) ∧
    (i.op.format = .h2 → instrOperands i = .h2 (w.extractLsb' 0 16) (w.extractLsb' 32 16))) ∧
  (∀ (i j : Instr) (s : State), i.op = j.op → instrOperands i = instrOperands j → exec i s = exec j s)

/-! ### The step -/

/-- R76 (30_encoding.md): a step on a legal word is its instruction; nothing is added around it. -/
def Obligations.StepRunsTheDecodedInstruction : Prop :=
  ∀ (s : State) (i : Instr), s.undriven = 0 → decode s.req = .ok i → step s = exec i s

/-- R76 (30_encoding.md): for every request word the step gives the response of the spec's own case table. -/
def Obligations.StepIsTheUnitFunction : Prop :=
  ∀ s : State, s.undriven = 0 → step s = .next { s with out := unit s.params s.req }

/-- R77 (30_encoding.md): exactly the words with RSV not 0 or OP from 0x12 on set ILL, show nothing else and
change nothing else. -/
def Obligations.IllegalWordSetsIllAndNothingElse : Prop :=
  ∀ s : State, s.undriven = 0 →
    (s.req.extractLsb' 53 11 ≠ 0 ∨ 0x12 ≤ (s.req.extractLsb' 48 5).toNat →
      step s = .next { s with out := { y := 0, txt := 0, tlen := 0, ill := 1 } }) ∧
    (s.req.extractLsb' 53 11 = 0 → (s.req.extractLsb' 48 5).toNat < 0x12 →
      ∃ r, step s = .next { s with out := r } ∧ r.ill = 0)

/-- R223 (60_exceptions.md): an illegal word sets ILL in its own response only; the request after it, whatever
it is, is answered as if the illegal one had not been. -/
def Obligations.IllIsNotSticky : Prop :=
  ∀ (s : State) (w w' : ReqWord), w.extractLsb' 53 11 ≠ 0 ∨ 0x12 ≤ (w.extractLsb' 48 5).toNat →
    ∃ t, step (s.present w) = .next t ∧ t.out.ill = 1 ∧
      ∃ t', step (s.present w') = .next t' ∧ step (t.present w') = .next t'

/-- R221 (60_exceptions.md): no operation traps on any input: every instruction completes in every state and
changes nothing but the outputs, and no fully driven word, legal or not, ends in a fault or a refusal. -/
def Obligations.NoInputTraps : Prop :=
  (∀ (i : Instr) (s : State), ∃ r, exec i s = .next { s with out := r }) ∧
  (∀ s : State, s.undriven = 0 → ∃ r, step s = .next { s with out := r })

/-- R35 (10_state.md): equal request words get equal responses, whatever the outputs were before. -/
def Obligations.ResponseDependsOnTheRequestAlone : Prop :=
  ∀ (s s' : State), s.params = s'.params → s.req = s'.req → s.undriven = 0 → s'.undriven = 0 →
    ∃ r, step s = .next { s with out := r } ∧ step s' = .next { s' with out := r }

/-- R53 (20_memory.md), R251 (70_reset_and_hazards.md): after a step the outputs are the function of REQ, and
repeating the request changes nothing. -/
def Obligations.StepSettlesAndRepeatingItChangesNothing : Prop :=
  ∀ (s t : State), step s = .next t → t.Settled ∧ step t = .next t

/-- R37 (10_state.md): each result kind on its ports, every other output 0. -/
def Obligations.ResultsAreDeliveredByKind : Prop :=
  ∀ (i : Instr) (s : State),
    (i.op.result = .h16 → ∃ h : Half,
      exec i s = .next { s with out := { y := h.setWidth 32, txt := 0, tlen := 0, ill := 0 } }) ∧
    (i.op.result = .f32 → ∃ f : Single,
      exec i s = .next { s with out := { y := f, txt := 0, tlen := 0, ill := 0 } }) ∧
    (i.op.result = .bool → ∃ b : Bool,
      exec i s = .next { s with out := { y := if b then 1 else 0, txt := 0, tlen := 0, ill := 0 } }) ∧
    (i.op.result = .int → ∃ y : BitVec 32, (y = 0xFFFFFFFF#32 ∨ y = 0 ∨ y = 1) ∧
      exec i s = .next { s with out := { y := y, txt := 0, tlen := 0, ill := 0 } }) ∧
    (i.op.result = .text → ∃ (t : Text) (n : BitVec 4),
      exec i s = .next { s with out := { y := 0, txt := t, tlen := n, ill := 0 } })

/-- The model's own refusal (I7 of 93_implementation_defined.md, treatment 'refuse'; log entry 4): exactly the
words with an undriven bit are refused, whatever the other bits are. -/
def Obligations.UndrivenRequestIsRefused : Prop :=
  ∀ s : State, step s = .refused .undrivenRequest ↔ s.undriven ≠ 0

/-- R250, R251 (70_reset_and_hazards.md), R7 (00_scope.md): the parameters have their defaults, and the outputs
are the function of REQ. That REQ is 0 and fully driven is the model's choice (log entries 3 and 4). -/
def Obligations.ResetHasTheDefaultsAndSettledOutputs : Prop :=
  State.reset.params.qnan16 = 0x7e00#16 ∧ State.reset.params.toFloatNan = .preserveQuiet ∧
  State.reset.params.roundNan = .pass ∧ State.reset.params.hexTrim = .none ∧ State.reset.Settled

/-- The invariant holds at reset. -/
def Obligations.ResetMeetsTheInvariant : Prop := State.reset.Inv

/-- R37 (10_state.md), R77 (30_encoding.md), R203, R207 (44_hex_formatter.md), R251: every step keeps QNAN16 a
NaN and leaves the outputs in the shape of a response. -/
def Obligations.StepKeepsTheInvariant : Prop := ∀ (s t : State), s.Inv → step s = .next t → t.Inv

/-! ### Formats and classifier -/

/-- R135 (41_classifier.md): the five categories of R22 partition the 65536 patterns with the stated counts, and
the three predicates are true exactly on theirs. -/
def Obligations.CategoriesPartitionThePatterns : Prop :=
  (∀ h : Half,
    (category16 h = .zero ↔ exp16 h = 0 ∧ man16 h = 0) ∧
    (category16 h = .subnormal ↔ exp16 h = 0 ∧ man16 h ≠ 0) ∧
    (category16 h = .normalized ↔ 1 ≤ exp16 h ∧ exp16 h ≤ 30) ∧
    (category16 h = .infinity ↔ exp16 h = 31 ∧ man16 h = 0) ∧
    (category16 h = .nan ↔ exp16 h = 31 ∧ man16 h ≠ 0) ∧
    (isNan16 h = true ↔ category16 h = .nan) ∧
    (isInf16 h = true ↔ category16 h = .infinity) ∧
    (isNorm16 h = true ↔ category16 h = .normalized)) ∧
  (∀ c : Category,
    (List.range 65536).countP (fun n => category16 (BitVec.ofNat 16 n) == c) =
      match c with
      | .zero => 2
      | .subnormal => 2046
      | .normalized => 61440
      | .infinity => 2
      | .nan => 2046)

/-- R29 (10_state.md): the patterns and values of the named constants; `NaN` is the parameter QNAN16. -/
def Obligations.NamedConstantsHaveTheirPatternsAndValues : Prop :=
  positiveZero = 0x0000#16 ∧ negativeZero = 0x8000#16 ∧ positiveInfinity = 0x7c00#16 ∧
  negativeInfinity = 0xfc00#16 ∧ maxValue = 0x7bff#16 ∧ minValue = 0x0001#16 ∧ minNormal = 0x0400#16 ∧
  lowestValue = 0xfbff#16 ∧ (∀ p : Params, nanConstant p = p.qnan16) ∧ nanConstant Params.default = 0x7e00#16 ∧
  val16 positiveZero = 0 ∧ val16 negativeZero = 0 ∧
  extVal16 positiveInfinity = ((⊤ : WithTop ℚ) : WithBot (WithTop ℚ)) ∧ extVal16 negativeInfinity = ⊥ ∧
  val16 maxValue = 65504 ∧ val16 minValue = 2 ^ (-24 : ℤ) ∧ val16 minNormal = 2 ^ (-14 : ℤ) ∧
  val16 lowestValue = -65504

/-- R130, R131 (41_classifier.md): ISNAN answers 1 exactly on the magnitudes above 0x7c00, which are exponent 31
with a mantissa that is not 0. -/
def Obligations.IsNanAnswersMagnitudesAboveInfinity : Prop :=
  ∀ (h : Half) (ignHi ignB : BitVec 16) (s : State),
    encode (.isNan h ignHi ignB) = (0#11 ++ 0x02#5 ++ ignB ++ (ignHi ++ h) : BitVec 64) ∧
    exec (.isNan h ignHi ignB) s =
      .next { s with out := { y := if mag16 h > 0x7c00 then 1 else 0, txt := 0, tlen := 0, ill := 0 } } ∧
    (mag16 h > 0x7c00 ↔ exp16 h = 31 ∧ man16 h ≠ 0)

/-- R132 (41_classifier.md): ISINF answers 1 on exactly the two infinities. -/
def Obligations.IsInfAnswersTheTwoInfinities : Prop :=
  ∀ (h : Half) (ignHi ignB : BitVec 16) (s : State),
    encode (.isInf h ignHi ignB) = (0#11 ++ 0x03#5 ++ ignB ++ (ignHi ++ h) : BitVec 64) ∧
    exec (.isInf h ignHi ignB) s =
      .next { s with out := { y := if h = 0x7c00#16 ∨ h = 0xfc00#16 then 1 else 0, txt := 0, tlen := 0, ill := 0 } } ∧
    (h = 0x7c00#16 ∨ h = 0xfc00#16 ↔ exp16 h = 31 ∧ man16 h = 0) ∧
    (h = 0x7c00#16 ∨ h = 0xfc00#16 ↔ mag16 h = 0x7c00)

/-- R134 (41_classifier.md), R23 (10_state.md): ISNORM answers 1 from MIN_NORMAL's magnitude to MAX_VALUE's,
which are the exponents 1 to 30. -/
def Obligations.IsNormAnswersExponentsOneToThirty : Prop :=
  ∀ (h : Half) (ignHi ignB : BitVec 16) (s : State),
    encode (.isNorm h ignHi ignB) = (0#11 ++ 0x04#5 ++ ignB ++ (ignHi ++ h) : BitVec 64) ∧
    exec (.isNorm h ignHi ignB) s =
      .next { s with out := { y := if 0x0400 ≤ mag16 h ∧ mag16 h ≤ 0x7bff then 1 else 0, txt := 0, tlen := 0, ill := 0 } } ∧
    (0x0400 ≤ mag16 h ∧ mag16 h ≤ 0x7bff ↔ 1 ≤ exp16 h ∧ exp16 h ≤ 30)

/-! ### Comparator -/

/-- R140 (42_comparator.md): the numeric key orders the halves that are no NaN as their exact values do, and
two patterns share a key only when both are zeros. -/
def Obligations.NumericKeyOrdersByValue : Prop :=
  ∀ x y : Half, isNan16 x = false → isNan16 y = false →
    (nkey x = if x.getLsbD 15 then -((x.extractLsb' 0 15).toNat : ℤ) else ((x.extractLsb' 0 15).toNat : ℤ)) ∧
    (nkey x < nkey y ↔ extVal16 x < extVal16 y) ∧
    (nkey x = nkey y ↔ extVal16 x = extVal16 y) ∧
    (nkey x = nkey y → x ≠ y →
      x = positiveZero ∧ y = negativeZero ∨ x = negativeZero ∧ y = positiveZero)

/-- R141 (42_comparator.md): the total key: -infinity lowest, then the negative finite values, -0, +0, the
positive finite values, +infinity, and every NaN on one key at the top; and it refines the numeric key. -/
def Obligations.TotalKeyRanksNanTopAndSplitsTheZeros : Prop :=
  (∀ x : Half,
    (isNan16 x = true → tkey x = 0x8000) ∧
    (isNan16 x = false → x.getLsbD 15 = false → tkey x = (x.extractLsb' 0 15).toNat) ∧
    (isNan16 x = false → x.getLsbD 15 = true → tkey x = -((x.extractLsb' 0 15).toNat : ℤ) - 1)) ∧
  tkey negativeInfinity = -0x7c01 ∧ tkey negativeZero = -1 ∧ tkey positiveZero = 0 ∧
  tkey positiveInfinity = 0x7c00 ∧
  (∀ x : Half, exp16 x ≠ 31 → val16 x < 0 → -0x7c01 < tkey x ∧ tkey x < -1) ∧
  (∀ x : Half, exp16 x ≠ 31 → 0 < val16 x → 0 < tkey x ∧ tkey x < 0x7c00) ∧
  (∀ x y : Half, isNan16 x = false → isNan16 y = false → nkey x ≠ nkey y →
    (tkey x < tkey y ↔ nkey x < nkey y))

/-- R142 (42_comparator.md): EQ. With a NaN operand 0; otherwise 1 exactly for equal keys, that is, equal
patterns or two zeros. -/
def Obligations.EqAnswersEqualPatternsOrTwoZeros : Prop :=
  ∀ (a b : Half) (ignHi : BitVec 16) (s : State),
    encode (.eq a b ignHi) = (0#11 ++ 0x05#5 ++ b ++ (ignHi ++ a) : BitVec 64) ∧
    exec (.eq a b ignHi) s =
      .next { s with out := { y := if eqHalf a b then 1 else 0, txt := 0, tlen := 0, ill := 0 } } ∧
    (eqHalf a b = true ↔ isNan16 a = false ∧ isNan16 b = false ∧ nkey a = nkey b) ∧
    (eqHalf a b = true ↔ isNan16 a = false ∧ isNan16 b = false ∧ (a = b ∨ mag16 a = 0 ∧ mag16 b = 0))

/-- R143 (42_comparator.md): LT, by the keys and by the exact values. -/
def Obligations.LtAnswersNumericallyLess : Prop :=
  ∀ (a b : Half) (ignHi : BitVec 16) (s : State),
    encode (.lt a b ignHi) = (0#11 ++ 0x06#5 ++ b ++ (ignHi ++ a) : BitVec 64) ∧
    exec (.lt a b ignHi) s =
      .next { s with out := { y := if ltHalf a b then 1 else 0, txt := 0, tlen := 0, ill := 0 } } ∧
    (ltHalf a b = true ↔ isNan16 a = false ∧ isNan16 b = false ∧ nkey a < nkey b) ∧
    (ltHalf a b = true ↔ isNan16 a = false ∧ isNan16 b = false ∧ extVal16 a < extVal16 b)

/-- R144 (42_comparator.md): LE, by the keys and by the exact values. -/
def Obligations.LeAnswersNumericallyLessOrEqual : Prop :=
  ∀ (a b : Half) (ignHi : BitVec 16) (s : State),
    encode (.le a b ignHi) = (0#11 ++ 0x07#5 ++ b ++ (ignHi ++ a) : BitVec 64) ∧
    exec (.le a b ignHi) s =
      .next { s with out := { y := if leHalf a b then 1 else 0, txt := 0, tlen := 0, ill := 0 } } ∧
    (leHalf a b = true ↔ isNan16 a = false ∧ isNan16 b = false ∧ nkey a ≤ nkey b) ∧
    (leHalf a b = true ↔ isNan16 a = false ∧ isNan16 b = false ∧ extVal16 a ≤ extVal16 b)

/-- R145 (42_comparator.md): GT, by the keys and by the exact values; a NaN is not greater than +infinity
although CMP ranks it above. -/
def Obligations.GtAnswersNumericallyGreater : Prop :=
  ∀ (a b : Half) (ignHi : BitVec 16) (s : State),
    encode (.gt a b ignHi) = (0#11 ++ 0x08#5 ++ b ++ (ignHi ++ a) : BitVec 64) ∧
    exec (.gt a b ignHi) s =
      .next { s with out := { y := if gtHalf a b then 1 else 0, txt := 0, tlen := 0, ill := 0 } } ∧
    (gtHalf a b = true ↔ isNan16 a = false ∧ isNan16 b = false ∧ nkey a > nkey b) ∧
    (gtHalf a b = true ↔ isNan16 a = false ∧ isNan16 b = false ∧ extVal16 b < extVal16 a) ∧
    (isNan16 a = true → gtHalf a positiveInfinity = false ∧ cmpHalf a positiveInfinity = 1)

/-- R146 (42_comparator.md): GE, by the keys and by the exact values. -/
def Obligations.GeAnswersNumericallyGreaterOrEqual : Prop :=
  ∀ (a b : Half) (ignHi : BitVec 16) (s : State),
    encode (.ge a b ignHi) = (0#11 ++ 0x09#5 ++ b ++ (ignHi ++ a) : BitVec 64) ∧
    exec (.ge a b ignHi) s =
      .next { s with out := { y := if geHalf a b then 1 else 0, txt := 0, tlen := 0, ill := 0 } } ∧
    (geHalf a b = true ↔ isNan16 a = false ∧ isNan16 b = false ∧ nkey a ≥ nkey b) ∧
    (geHalf a b = true ↔ isNan16 a = false ∧ isNan16 b = false ∧ extVal16 b ≤ extVal16 a)

/-- R147 (42_comparator.md): the laws of the five predicates. -/
def Obligations.PredicateLaws : Prop :=
  ∀ a b : Half,
    leHalf a b = (ltHalf a b || eqHalf a b) ∧
    geHalf a b = (gtHalf a b || eqHalf a b) ∧
    gtHalf a b = ltHalf b a ∧
    geHalf a b = leHalf b a ∧
    eqHalf a b = eqHalf b a ∧
    (isNan16 a = false → isNan16 b = false →
      [ltHalf a b, eqHalf a b, gtHalf a b].count true = 1) ∧
    (isNan16 a = true ∨ isNan16 b = true →
      eqHalf a b = false ∧ ltHalf a b = false ∧ leHalf a b = false ∧ gtHalf a b = false ∧ geHalf a b = false)

/-- R148 (42_comparator.md): CMP answers -1, 0 or +1 in two's complement by the total keys, with the rule's
corner cases. -/
def Obligations.CmpAnswersTheTotalOrder : Prop :=
  (∀ (a b : Half) (ignHi : BitVec 16) (s : State),
    encode (.cmp a b ignHi) = (0#11 ++ 0x0A#5 ++ b ++ (ignHi ++ a) : BitVec 64) ∧
    exec (.cmp a b ignHi) s =
      .next { s with out := { y := if tkey a < tkey b then 0xFFFFFFFF#32 else if tkey a > tkey b then 1 else 0,
                              txt := 0, tlen := 0, ill := 0 } }) ∧
  (∀ a b : Half,
    cmpHalf a b = (if tkey a < tkey b then -1 else if tkey a > tkey b then 1 else 0) ∧
    (isNan16 a = true → isNan16 b = false → cmpHalf a b = 1) ∧
    (isNan16 a = true → isNan16 b = true → cmpHalf a b = 0) ∧
    cmpHalf a a = 0) ∧
  cmpHalf positiveZero negativeZero = 1 ∧ cmpHalf negativeZero positiveZero = -1

/-- R149 (42_comparator.md): CMP is antisymmetric, transitive and total, 0 exactly on equal patterns and pairs
of NaNs, and agrees with LT and GT away from NaNs and pairs of zeros. -/
def Obligations.CmpIsATotalOrder : Prop :=
  ∀ a b c : Half,
    cmpHalf a b = -cmpHalf b a ∧
    (cmpHalf a b ≤ 0 → cmpHalf b c ≤ 0 → cmpHalf a c ≤ 0) ∧
    (cmpHalf a b ≤ 0 ∨ cmpHalf b a ≤ 0) ∧
    (cmpHalf a b = 0 ↔ isNan16 a = true ∧ isNan16 b = true ∨ a = b) ∧
    (isNan16 a = false → isNan16 b = false → ¬(mag16 a = 0 ∧ mag16 b = 0) →
      (cmpHalf a b = -1 ↔ ltHalf a b = true) ∧ (cmpHalf a b = 1 ↔ gtHalf a b = true))

/-- R150, R151 (42_comparator.md): MIN. The parameter QNAN16 with a NaN operand; otherwise the operand that the
total order ranks lower, bit for bit, -0 below +0. -/
def Obligations.MinAnswersTheLowerOperand : Prop :=
  (∀ (a b : Half) (ignHi : BitVec 16) (s : State),
    encode (.min a b ignHi) = (0#11 ++ 0x0B#5 ++ b ++ (ignHi ++ a) : BitVec 64) ∧
    exec (.min a b ignHi) s =
      .next { s with out := { y := (minHalf s.params a b).setWidth 32, txt := 0, tlen := 0, ill := 0 } }) ∧
  (∀ (p : Params) (a b : Half),
    (isNan16 a = true ∨ isNan16 b = true → minHalf p a b = p.qnan16) ∧
    (isNan16 a = false → isNan16 b = false →
      minHalf p a b = (if tkey a ≤ tkey b then a else b) ∧ (tkey a = tkey b → a = b)) ∧
    minHalf p positiveZero negativeZero = negativeZero ∧ minHalf p negativeZero positiveZero = negativeZero)

/-- R152, R151 (42_comparator.md): MAX. The parameter QNAN16 with a NaN operand; otherwise the operand that the
total order ranks higher, bit for bit, +0 above -0. -/
def Obligations.MaxAnswersTheHigherOperand : Prop :=
  (∀ (a b : Half) (ignHi : BitVec 16) (s : State),
    encode (.max a b ignHi) = (0#11 ++ 0x0C#5 ++ b ++ (ignHi ++ a) : BitVec 64) ∧
    exec (.max a b ignHi) s =
      .next { s with out := { y := (maxHalf s.params a b).setWidth 32, txt := 0, tlen := 0, ill := 0 } }) ∧
  (∀ (p : Params) (a b : Half),
    (isNan16 a = true ∨ isNan16 b = true → maxHalf p a b = p.qnan16) ∧
    (isNan16 a = false → isNan16 b = false → maxHalf p a b = if tkey a ≥ tkey b then a else b) ∧
    (isNan16 a = false → maxHalf p a positiveInfinity = positiveInfinity) ∧
    maxHalf p positiveZero negativeZero = positiveZero ∧ maxHalf p negativeZero positiveZero = positiveZero)

/-- R153 (42_comparator.md): MIN and MAX are commutative, return the two operands between them, and are in
order. -/
def Obligations.MinAndMaxLaws : Prop :=
  ∀ (p : Params) (a b : Half),
    minHalf p a b = minHalf p b a ∧ maxHalf p a b = maxHalf p b a ∧
    (isNan16 a = false → isNan16 b = false →
      (minHalf p a b = a ∧ maxHalf p a b = b ∨ minHalf p a b = b ∧ maxHalf p a b = a) ∧
      cmpHalf (minHalf p a b) (maxHalf p a b) ≤ 0)

/-! ### Codec -/

/-- R100, R101 (40_codec.md): TOHALF. A NaN gives QNAN16, an infinity the infinity of its sign, and a finite
pattern the half of its sign whose magnitude is the rounding to nearest, ties to even, of its exact value. -/
def Obligations.ToHalfRoundsToNearestEven : Prop :=
  (∀ (f : Single) (ignB : BitVec 16) (s : State),
    encode (.toHalf f ignB) = (0#11 ++ 0x00#5 ++ ignB ++ f : BitVec 64) ∧
    exec (.toHalf f ignB) s =
      .next { s with out := { y := (toHalf s.params f).setWidth 32, txt := 0, tlen := 0, ill := 0 } }) ∧
  (∀ (p : Params) (f : Single),
    (exp32 f = 255 → man32 f ≠ 0 → toHalf p f = p.qnan16) ∧
    (exp32 f = 255 → man32 f = 0 → toHalf p f = pack16 (sign32 f) 0x7c00) ∧
    (exp32 f ≠ 255 →
      sign16 (toHalf p f) = sign32 f ∧ IsRne16 |val32 f| (mag16 (toHalf p f))))

/-- R102 (40_codec.md): from 65520 on the result is the infinity of the operand's sign; below, it is finite. -/
def Obligations.ToHalfSaturatesAt65520 : Prop :=
  ∀ (p : Params) (f : Single), exp32 f ≠ 255 →
    (65520 ≤ |val32 f| → toHalf p f = pack16 (sign32 f) 0x7c00) ∧
    (|val32 f| < 65520 → |val16 (toHalf p f)| ≤ 65504 ∧ exp16 (toHalf p f) ≠ 31)

/-- R103, R105 (40_codec.md): up to 2^-25, binary32 zeros and subnormals among them, the result is the zero of
the operand's sign; above 2^-25 and below 2^-14 it is the nearest of the magnitudes 1 to 0x400. -/
def Obligations.ToHalfFlushesUpToTwoToMinus25 : Prop :=
  ∀ (p : Params) (f : Single), exp32 f ≠ 255 →
    (|val32 f| ≤ 2 ^ (-25 : ℤ) → toHalf p f = pack16 (sign32 f) 0) ∧
    (exp32 f = 0 → |val32 f| < 2 ^ (-126 : ℤ) ∧ toHalf p f = pack16 (sign32 f) 0) ∧
    (2 ^ (-25 : ℤ) < |val32 f| → |val32 f| < 2 ^ (-14 : ℤ) →
      1 ≤ mag16 (toHalf p f) ∧ mag16 (toHalf p f) ≤ 0x400 ∧ sign16 (toHalf p f) = sign32 f ∧
      ∀ j, j ≤ 0x400 → abs (abs (val16 (toHalf p f)) - abs (val32 f)) ≤ abs (magValue j - abs (val32 f)))

/-- R107 (40_codec.md): the worked example, and the carries out of MAX_VALUE and out of the largest subnormal. -/
def Obligations.RoundingCarryMovesIntoTheExponent : Prop :=
  ∀ p : Params, toHalf p 0x39fff000#32 = 0x1000#16 ∧ toHalf p 0x477ff000#32 = positiveInfinity ∧
    toHalf p 0x387fe000#32 = minNormal

/-- R109 (40_codec.md), second bullet: TOHALF is monotone on patterns that are no NaN. -/
def Obligations.ToHalfIsMonotone : Prop :=
  ∀ (p : Params) (f g : Single), isNan32 f = false → isNan32 g = false → extVal32 f ≤ extVal32 g →
    extVal16 (toHalf p f) ≤ extVal16 (toHalf p g)

/-- R109 (40_codec.md), third bullet, with R254 (70_reset_and_hazards.md): the answer of TOFLOAT to any half
that is no NaN, placed in a TOHALF request, gives the half back bit for bit. -/
def Obligations.ToHalfOfToFloatGivesTheHalfBack : Prop :=
  ∀ (h : Half) (ignHi ignB : BitVec 16) (s : State), isNan16 h = false →
    ∃ f : Single, exec (.toFloat h ignHi ignB) s = .next { s with out := { y := f, txt := 0, tlen := 0, ill := 0 } } ∧
      ∀ (t : State) (ignB' : BitVec 16),
        exec (.toHalf f ignB') t =
          .next { t with out := { y := h.setWidth 32, txt := 0, tlen := 0, ill := 0 } }

/-- R111 (40_codec.md): TOFLOAT of a normalized half: same sign, exponent plus 112, mantissa shifted by 13, same
value. -/
def Obligations.ToFloatOfNormalizedRebiasesTheExponent : Prop :=
  ∀ (p : Params) (h : Half), category16 h = .normalized →
    sign32 (toFloat p h) = sign16 h ∧ exp32 (toFloat p h) = exp16 h + 112 ∧
    man32 (toFloat p h) = man16 h * 2 ^ 13 ∧ val32 (toFloat p h) = val16 h

/-- R112 (40_codec.md): TOFLOAT of a subnormal half, `t` being the index of its mantissa's highest 1 bit. -/
def Obligations.ToFloatOfSubnormalNormalizesTheMantissa : Prop :=
  ∀ (p : Params) (h : Half) (t : Nat), exp16 h = 0 → 2 ^ t ≤ man16 h → man16 h < 2 ^ (t + 1) →
    sign32 (toFloat p h) = sign16 h ∧ exp32 (toFloat p h) = t + 103 ∧
    103 ≤ exp32 (toFloat p h) ∧ exp32 (toFloat p h) ≤ 112 ∧
    man32 (toFloat p h) = man16 h * 2 ^ (23 - t) % 2 ^ 23 ∧
    val16 h = signUnit (sign16 h) * (man16 h * 2 ^ (-24 : ℤ)) ∧ val32 (toFloat p h) = val16 h

/-- R114 (40_codec.md): TOFLOAT of a NaN is a binary32 NaN under every setting of TOFLOAT_NAN, and which one
under the two named settings, the first being the default. -/
def Obligations.ToFloatOfNanIsANan : Prop :=
  Params.default.toFloatNan = .preserveQuiet ∧
  ∀ (p : Params) (h : Half), isNan16 h = true →
    isNan32 (toFloat p h) = true ∧
    (p.toFloatNan = .preserveQuiet →
      toFloat p h = ((h &&& 0x8000#16).setWidth 32 <<< 16) ||| 0x7f800000#32 |||
        ((h &&& 0x03ff#16).setWidth 32 <<< 13) ||| 0x00400000#32) ∧
    (p.toFloatNan = .canonical → toFloat p h = 0x7fc00000#32)

/-- R110, R113, R115 (40_codec.md): TOFLOAT is exact on every finite half, keeps the infinities and the signs of
zeros, and sends different halves that are no NaN to different patterns. -/
def Obligations.ToFloatIsExactAndInjective : Prop :=
  (∀ (h : Half) (ignHi ignB : BitVec 16) (s : State),
    encode (.toFloat h ignHi ignB) = (0#11 ++ 0x01#5 ++ ignB ++ (ignHi ++ h) : BitVec 64) ∧
    exec (.toFloat h ignHi ignB) s =
      .next { s with out := { y := toFloat s.params h, txt := 0, tlen := 0, ill := 0 } }) ∧
  (∀ p : Params,
    (∀ h : Half, exp16 h ≠ 31 →
      exp32 (toFloat p h) ≠ 255 ∧ val32 (toFloat p h) = val16 h ∧ sign32 (toFloat p h) = sign16 h) ∧
    toFloat p positiveZero = 0x00000000#32 ∧ toFloat p negativeZero = 0x80000000#32 ∧
    toFloat p positiveInfinity = 0x7f800000#32 ∧ toFloat p negativeInfinity = 0xff800000#32 ∧
    (∀ h h' : Half, isNan16 h = false → isNan16 h' = false → toFloat p h = toFloat p h' → h = h'))

/-- R222 (60_exceptions.md), R109 (40_codec.md): a NaN result arises only from a NaN operand, and from every one
when QNAN16 is a NaN. -/
def Obligations.NansComeOnlyFromNans : Prop :=
  ∀ p : Params, p.wellFormed = true →
    (∀ f : Single, isNan16 (toHalf p f) = isNan32 f) ∧
    (∀ h : Half, isNan32 (toFloat p h) = isNan16 h) ∧
    (∀ a b : Half, isNan16 (minHalf p a b) = (isNan16 a || isNan16 b)) ∧
    (∀ a b : Half, isNan16 (maxHalf p a b) = (isNan16 a || isNan16 b)) ∧
    (∀ (o : RoundOp) (h : Half), isNan16 (roundHalf p o h) = isNan16 h)

/-! ### Rounding unit -/

/-- R171, R170, R176 (43_rounding.md): CEIL gives the half with the ceiling of the exact value and the operand's
sign; an infinity stays, a NaN goes by ROUND_NAN. -/
def Obligations.CeilGivesTheCeiling : Prop :=
  (∀ (h : Half) (ignHi ignB : BitVec 16) (s : State),
    encode (.ceil h ignHi ignB) = (0#11 ++ 0x0D#5 ++ ignB ++ (ignHi ++ h) : BitVec 64) ∧
    exec (.ceil h ignHi ignB) s =
      .next { s with out := { y := (roundHalf s.params .ceil h).setWidth 32, txt := 0, tlen := 0, ill := 0 } }) ∧
  (∀ (p : Params) (h : Half),
    (exp16 h ≠ 31 → RoundsTo h ⌈val16 h⌉ (roundHalf p .ceil h)) ∧
    (exp16 h = 31 → isNan16 h = false → roundHalf p .ceil h = h) ∧
    (isNan16 h = true → roundHalf p .ceil h = if p.roundNan = .pass then h else h ||| 0x0200#16))

/-- R172, R170, R176 (43_rounding.md): FLOOR. -/
def Obligations.FloorGivesTheFloor : Prop :=
  (∀ (h : Half) (ignHi ignB : BitVec 16) (s : State),
    encode (.floor h ignHi ignB) = (0#11 ++ 0x0E#5 ++ ignB ++ (ignHi ++ h) : BitVec 64) ∧
    exec (.floor h ignHi ignB) s =
      .next { s with out := { y := (roundHalf s.params .floor h).setWidth 32, txt := 0, tlen := 0, ill := 0 } }) ∧
  (∀ (p : Params) (h : Half),
    (exp16 h ≠ 31 → RoundsTo h ⌊val16 h⌋ (roundHalf p .floor h)) ∧
    (exp16 h = 31 → isNan16 h = false → roundHalf p .floor h = h) ∧
    (isNan16 h = true → roundHalf p .floor h = if p.roundNan = .pass then h else h ||| 0x0200#16))

/-- R173, R170, R176 (43_rounding.md): RINT, ties to even, the operand's sign on a zero result. -/
def Obligations.RintGivesTheNearestEvenInteger : Prop :=
  (∀ (h : Half) (ignHi ignB : BitVec 16) (s : State),
    encode (.rint h ignHi ignB) = (0#11 ++ 0x0F#5 ++ ignB ++ (ignHi ++ h) : BitVec 64) ∧
    exec (.rint h ignHi ignB) s =
      .next { s with out := { y := (roundHalf s.params .rint h).setWidth 32, txt := 0, tlen := 0, ill := 0 } }) ∧
  (∀ (p : Params) (h : Half),
    (exp16 h ≠ 31 → RoundsTo h (rintOf (val16 h)) (roundHalf p .rint h)) ∧
    (exp16 h = 31 → isNan16 h = false → roundHalf p .rint h = h) ∧
    (isNan16 h = true → roundHalf p .rint h = if p.roundNan = .pass then h else h ||| 0x0200#16))

/-- R174, R170, R176 (43_rounding.md): TRUNC, toward zero, the operand's sign on a zero result. -/
def Obligations.TruncGivesTheIntegerTowardZero : Prop :=
  (∀ (h : Half) (ignHi ignB : BitVec 16) (s : State),
    encode (.trunc h ignHi ignB) = (0#11 ++ 0x10#5 ++ ignB ++ (ignHi ++ h) : BitVec 64) ∧
    exec (.trunc h ignHi ignB) s =
      .next { s with out := { y := (roundHalf s.params .trunc h).setWidth 32, txt := 0, tlen := 0, ill := 0 } }) ∧
  (∀ (p : Params) (h : Half),
    (exp16 h ≠ 31 → RoundsTo h (truncOf (val16 h)) (roundHalf p .trunc h)) ∧
    (exp16 h = 31 → isNan16 h = false → roundHalf p .trunc h = h) ∧
    (isNan16 h = true → roundHalf p .trunc h = if p.roundNan = .pass then h else h ||| 0x0200#16))

/-- R175 (43_rounding.md): the bit-level algorithm computes the exact definitions for every half that is no
NaN. -/
def Obligations.BitLevelRoundingIsExactRounding : Prop :=
  ∀ (p : Params) (o : RoundOp) (h : Half), isNan16 h = false → roundBits o h = roundHalf p o h

/-- R176 (43_rounding.md): infinities and integral values, zeros among them, come back bit for bit, and a NaN
gives a NaN: itself under PASS, itself with bit 9 set under QUIET. -/
def Obligations.RoundingKeepsNansInfinitiesAndIntegers : Prop :=
  ∀ (p : Params) (o : RoundOp) (h : Half),
    (isInf16 h = true → roundHalf p o h = h) ∧
    (exp16 h ≠ 31 → (∃ n : ℤ, val16 h = n) → roundHalf p o h = h) ∧
    (isNan16 h = true → isNan16 (roundHalf p o h) = true) ∧
    (isNan16 h = true → p.roundNan = .pass → roundHalf p o h = h) ∧
    (isNan16 h = true → p.roundNan = .quiet → roundHalf p o h = h ||| 0x0200#16)

/-- R177 (43_rounding.md): the laws of the four roundings. -/
def Obligations.RoundingLaws : Prop :=
  ∀ (p : Params) (h : Half),
    (∀ o : RoundOp, roundHalf p o (roundHalf p o h) = roundHalf p o h) ∧
    (exp16 h ≠ 31 →
      val16 (roundHalf p .floor h) ≤ val16 h ∧ val16 h ≤ val16 (roundHalf p .ceil h) ∧
      |val16 (roundHalf p .rint h) - val16 h| ≤ 1 / 2) ∧
    (sign16 h = false → roundHalf p .trunc h = roundHalf p .floor h) ∧
    (sign16 h = true → roundHalf p .trunc h = roundHalf p .ceil h) ∧
    roundHalf p .ceil h = roundHalf p .floor (h ^^^ 0x8000#16) ^^^ 0x8000#16 ∧
    (∀ o : RoundOp, isNan16 (roundHalf p o h) = true → isNan16 h = true) ∧
    (∀ o : RoundOp, exp16 h ≠ 31 → exp16 (roundHalf p o h) ≠ 31)

/-! ### Hex formatter -/

/-- R201 (44_hex_formatter.md), packed as R207 says: the texts of NaNs, infinities and zeros. -/
def Obligations.ToHexOfSpecialValues : Prop :=
  ∀ (h : Half) (ignHi ignB : BitVec 16) (s : State),
    (isNan16 h = true → exec (.toHex h ignHi ignB) s =
      .next { s with out := { y := 0, txt := 0x0000000000000000004E614E#96, tlen := 3, ill := 0 } }) ∧
    (h = positiveInfinity → exec (.toHex h ignHi ignB) s =
      .next { s with out := { y := 0, txt := 0x000000007974696E69666E49#96, tlen := 8, ill := 0 } }) ∧
    (h = negativeInfinity → exec (.toHex h ignHi ignB) s =
      .next { s with out := { y := 0, txt := 0x0000007974696E69666E492D#96, tlen := 9, ill := 0 } }) ∧
    (h = positiveZero → exec (.toHex h ignHi ignB) s =
      .next { s with out := { y := 0, txt := 0x00000000003070302E307830#96, tlen := 7, ill := 0 } }) ∧
    (h = negativeZero → exec (.toHex h ignHi ignB) s =
      .next { s with out := { y := 0, txt := 0x000000003070302E3078302D#96, tlen := 8, ill := 0 } })

/-- R202, R205 and R204 with HEX_TRIM = NONE (44_hex_formatter.md): the text of a finite value that is not 0:
its sign, `0x`, the implicit bit, a point, a hex numeral of the mantissa without leading zeros, `p`, and a
decimal numeral of the exponent without leading zeros and without `+`. -/
def Obligations.ToHexOfFiniteValuesReadsBack : Prop :=
  ∀ (p : Params) (h : Half), exp16 h ≠ 31 → mag16 h ≠ 0 → p.hexTrim = .none →
    ∃ ds es : List Char,
      toHexChars p h =
        (if sign16 h then ['-'] else []) ++ ['0', 'x', if exp16 h = 0 then '0' else '1', '.'] ++ ds ++ ['p'] ++ es ∧
      readNumber 16 hexDigit ds = some (man16 h) ∧ ds.length ≤ 3 ∧ (ds.head? = some '0' → ds = ['0']) ∧
      (∀ c ∈ ds, c ∉ ['A', 'B', 'C', 'D', 'E', 'F']) ∧
      readExponent es = some (if exp16 h = 0 then -14 else (exp16 h : ℤ) - 15) ∧ '+' ∉ es ∧
      (es.head? = some '0' → es = ['0']) ∧ (es[0]? = some '-' → es[1]? ≠ some '0')

/-- R207, R203 (44_hex_formatter.md): TOHEX puts the text's ASCII codes in TXT, first character lowest, zeros
above them, its length, 3 to 12, in TLEN, and 0 in Y. -/
def Obligations.ToHexPacksTheTextAndItsLength : Prop :=
  ∀ (h : Half) (ignHi ignB : BitVec 16) (s : State),
    encode (.toHex h ignHi ignB) = (0#11 ++ 0x11#5 ++ ignB ++ (ignHi ++ h) : BitVec 64) ∧
    ∃ (t : Text) (n : BitVec 4),
      exec (.toHex h ignHi ignB) s = .next { s with out := { y := 0, txt := t, tlen := n, ill := 0 } } ∧
      n.toNat = (toHexChars s.params h).length ∧ 3 ≤ n.toNat ∧ n.toNat ≤ 12 ∧
      (∀ (k : Nat) (c : Char), (toHexChars s.params h)[k]? = some c → (charAt t k).toNat = c.toNat) ∧
      (∀ k, n.toNat ≤ k → charAt t k = 0)

/-- R206 (44_hex_formatter.md): under RUN2 a trailing run of two or more zeros goes, which changes the digits of
the mantissas 0x100, 0x200 and 0x300 alone. -/
def Obligations.HexTrimChangesThreeMantissas : Prop :=
  ∀ (p q : Params), p.hexTrim = .none → q.hexTrim = .run2 →
    (∀ m, m < 1024 → mantissaDigits p m = digits m) ∧
    (∀ m, m < 1024 → (mantissaDigits q m ≠ mantissaDigits p m ↔ m = 0x100 ∨ m = 0x200 ∨ m = 0x300)) ∧
    mantissaDigits q 0x100 = ['1'] ∧ mantissaDigits q 0x200 = ['2'] ∧ mantissaDigits q 0x300 = ['3'] ∧
    mantissaDigits q 0x010 = ['1', '0'] ∧ mantissaDigits q 0 = ['0'] ∧
    toHexChars q 0x0100#16 = "0x0.1p-14".toList ∧ toHexChars q 0x0001#16 = "0x0.1p-14".toList

/-- R208 (44_hex_formatter.md): the characters TOHEX writes. -/
def Obligations.ToHexWritesOnlyItsCharacterSet : Prop :=
  ∀ (p : Params) (h : Half) (c : Char), c ∈ toHexChars p h → c ∈ "0123456789abcdefxp.-NaNInfinity".toList

/-- R200 to R205 (44_hex_formatter.md): without trimming, different halves that are no NaN print differently. -/
def Obligations.ToHexDistinguishesHalves : Prop :=
  ∀ (p : Params) (a b : Half), p.hexTrim = .none → isNan16 a = false → isNan16 b = false →
    toHexChars p a = toHexChars p b → a = b
end

