-- ==== Sys2Proof/Laws/Decode.lean ====
section
/-! SUPPORT. The op code table is one to one, and what a step can do. -/

namespace Sys2Proof

/-- Every operation is found again by its op code (R75 of 30_encoding.md). -/
theorem Op.ofCode_code (o : Op) : Op.ofCode o.code = some o := by cases o <;> decide

/-- An op code stands for an operation exactly below 0x12 (R73 of 30_encoding.md). -/
theorem Op.ofCode_isSome (c : BitVec 5) : (Op.ofCode c).isSome = decide (c.toNat < 0x12) := by
  revert c; decide

/-- An operation found by an op code has that op code. -/
theorem Op.code_of_ofCode {c : BitVec 5} {o : Op} (h : Op.ofCode c = some o) : o.code = c := by
  have := List.find?_some h
  simpa using this

/-- The instruction an operation makes of a request is one of that operation. -/
theorem Op.op_instr (o : Op) (r : Request) : (o.instr r).op = o := by cases o <;> rfl

namespace Machine

/-- Everything `exec` can do: it answers, and changes the outputs alone. -/
theorem exec_responds (i : Instr) (s : State) : ∃ r, exec i s = .next (s.respond r) := by
  cases i <;> exact ⟨_, rfl⟩

/-- Everything a step can do: refuse a word with an undriven bit, or answer. -/
theorem step_cases (s : State) :
    (s.undriven ≠ 0 ∧ step s = .refused .undrivenRequest) ∨
    (s.undriven = 0 ∧ ∃ r, step s = .next (s.respond r)) := by
  by_cases h : s.undriven = 0
  · refine .inr ⟨h, ?_⟩
    cases hd : decode s.req with
    | error e => exact ⟨illegalResponse, by simp [step, h, hd]⟩
    | ok i =>
      obtain ⟨r, hr⟩ := exec_responds i s
      exact ⟨r, by simp [step, h, hd, hr]⟩
  · exact .inl ⟨h, if_pos h⟩

end Machine

end Sys2Proof
end

