-- ==== Sys2Proof/Laws/Formats.lean ====
section
/-! SUPPORT. The fields of halves and binary32 patterns: bounds, how the fields make up the pattern, and what
the packing functions give. -/

namespace Sys2Proof.Machine

theorem exp16_lt (h : Half) : exp16 h < 32 := (h.extractLsb' 10 5).isLt
theorem man16_lt (h : Half) : man16 h < 1024 := (h.extractLsb' 0 10).isLt
theorem mag16_lt (h : Half) : mag16 h < 32768 := (h.extractLsb' 0 15).isLt
theorem exp32_lt (f : Single) : exp32 f < 256 := (f.extractLsb' 23 8).isLt
theorem man32_lt (f : Single) : man32 f < 8388608 := (f.extractLsb' 0 23).isLt

theorem exp16_eq (h : Half) : exp16 h = h.toNat / 1024 % 32 := by
  simp [exp16, Nat.shiftRight_eq_div_pow]

theorem man16_eq (h : Half) : man16 h = h.toNat % 1024 := by
  simp [man16]

theorem mag16_eq (h : Half) : mag16 h = h.toNat % 32768 := by
  simp [mag16]

theorem sign16_eq (h : Half) : sign16 h = decide (32768 ≤ h.toNat) := by
  have e : sign16 h = h.msb := rfl
  rw [e, BitVec.msb_eq_decide]

theorem exp32_eq (f : Single) : exp32 f = f.toNat / 8388608 % 256 := by
  simp [exp32, Nat.shiftRight_eq_div_pow]

theorem man32_eq (f : Single) : man32 f = f.toNat % 8388608 := by
  simp [man32]

theorem sign32_eq (f : Single) : sign32 f = decide (2147483648 ≤ f.toNat) := by
  have e : sign32 f = f.msb := rfl
  rw [e, BitVec.msb_eq_decide]

/-- The magnitude is the exponent above the mantissa. -/
theorem mag16_eq_fields (h : Half) : mag16 h = exp16 h * 1024 + man16 h := by
  rw [mag16_eq, exp16_eq, man16_eq]; omega

theorem exp16_eq_mag (h : Half) : exp16 h = mag16 h / 1024 := by
  have := man16_lt h; rw [mag16_eq_fields]; omega

theorem man16_eq_mag (h : Half) : man16 h = mag16 h % 1024 := by
  have := man16_lt h; rw [mag16_eq_fields]; omega

/-- A half is its sign and its magnitude. -/
theorem half_ext {x y : Half} (hs : sign16 x = sign16 y) (hm : mag16 x = mag16 y) : x = y := by
  apply BitVec.eq_of_toNat_eq
  have hx := x.isLt
  have hy := y.isLt
  simp only [sign16_eq, mag16_eq, decide_eq_decide] at hs hm
  by_cases h : 32768 ≤ x.toNat
  · have := hs.mp h; omega
  · have := mt hs.mpr h; omega

/-- A binary32 pattern is its three fields. -/
theorem single_ext {x y : Single} (hs : sign32 x = sign32 y) (he : exp32 x = exp32 y) (hm : man32 x = man32 y) :
    x = y := by
  apply BitVec.eq_of_toNat_eq
  have hx := x.isLt
  have hy := y.isLt
  simp only [sign32_eq, exp32_eq, man32_eq, decide_eq_decide] at hs he hm
  by_cases h : 2147483648 ≤ x.toNat
  · have := hs.mp h; omega
  · have := mt hs.mpr h; omega

theorem toNat_pack16 (s : Bool) (k : Nat) : (pack16 s k).toNat = s.toNat * 32768 + k % 32768 := by
  have h : k % 32768 < 2 ^ 15 := by omega
  simp only [pack16, BitVec.toNat_append, BitVec.toNat_ofBool, BitVec.toNat_ofNat]
  rw [show (2 : Nat) ^ 15 = 32768 from rfl, ← Nat.shiftLeft_add_eq_or_of_lt h, Nat.shiftLeft_eq]

theorem sign16_pack16 (s : Bool) (k : Nat) : sign16 (pack16 s k) = s := by
  rw [sign16_eq, toNat_pack16]
  cases s with
  | false => simp; omega
  | true => simp

theorem mag16_pack16 (s : Bool) (k : Nat) : mag16 (pack16 s k) = k % 32768 := by
  rw [mag16_eq, toNat_pack16]; omega

theorem exp16_pack16 (s : Bool) (k : Nat) : exp16 (pack16 s k) = k % 32768 / 1024 := by
  rw [exp16_eq_mag, mag16_pack16]

theorem man16_pack16 (s : Bool) (k : Nat) : man16 (pack16 s k) = k % 1024 := by
  rw [man16_eq_mag, mag16_pack16]; omega

/-- Packing a half's own sign and magnitude gives it back. -/
theorem pack16_fields (h : Half) : pack16 (sign16 h) (mag16 h) = h :=
  half_ext (sign16_pack16 _ _) (by rw [mag16_pack16, Nat.mod_eq_of_lt (mag16_lt h)])

theorem toNat_pack32 (s : Bool) (e m : Nat) :
    (pack32 s e m).toNat = s.toNat * 2147483648 + e % 256 * 8388608 + m % 8388608 := by
  have h1 : e % 256 < 2 ^ 8 := by omega
  have h2 : m % 8388608 < 2 ^ 23 := by omega
  simp only [pack32, BitVec.toNat_append, BitVec.toNat_ofBool, BitVec.toNat_ofNat]
  rw [show (2 : Nat) ^ 8 = 256 from rfl, show (2 : Nat) ^ 23 = 8388608 from rfl,
    ← Nat.shiftLeft_add_eq_or_of_lt h1, ← Nat.shiftLeft_add_eq_or_of_lt h2, Nat.shiftLeft_eq, Nat.shiftLeft_eq]
  omega

theorem sign32_pack32 (s : Bool) (e m : Nat) : sign32 (pack32 s e m) = s := by
  rw [sign32_eq, toNat_pack32]; cases s <;> (simp; omega)

theorem exp32_pack32 (s : Bool) (e m : Nat) : exp32 (pack32 s e m) = e % 256 := by
  rw [exp32_eq, toNat_pack32]; cases s <;> simp <;> omega

theorem man32_pack32 (s : Bool) (e m : Nat) : man32 (pack32 s e m) = m % 8388608 := by
  rw [man32_eq, toNat_pack32]; omega

/-- The exact value of a finite or subnormal half is its scaled integer in units of 2^-24. -/
theorem val16_eq_scaled16 (h : Half) : val16 h = (scaled16 h : ℚ) / 2 ^ 24 := by
  have key : (if exp16 h = 0 then (man16 h : ℚ) / 1024 * 2 ^ (-14 : ℤ)
      else (1 + (man16 h : ℚ) / 1024) * 2 ^ ((exp16 h : ℤ) - 15)) =
      ((if exp16 h = 0 then man16 h else (1024 + man16 h) * 2 ^ (exp16 h - 1) : Nat) : ℚ) / 2 ^ 24 := by
    split
    · norm_num; ring
    · rename_i he
      obtain ⟨e, he'⟩ : ∃ e, exp16 h = e + 1 := ⟨exp16 h - 1, by omega⟩
      rw [he', show ((e + 1 : ℕ) : ℤ) - 15 = (e : ℤ) - 14 by push_cast; ring, zpow_sub₀ (by norm_num)]
      push_cast
      norm_num
      ring
  unfold val16 scaled16
  rw [key]
  cases sign16 h with
  | false => simp [signUnit]
  | true => simp [signUnit]; ring

/-- The value of a half whose fields are known. -/
theorem val16_of_fields {h : Half} {s : Bool} {e m : Nat} (hs : sign16 h = s) (he : exp16 h = e) (hm : man16 h = m) :
    val16 h = signUnit s *
      (if e = 0 then (m : ℚ) / 1024 * 2 ^ (-14 : ℤ) else (1 + (m : ℚ) / 1024) * 2 ^ ((e : ℤ) - 15)) := by
  subst hs he hm; rfl

/-- The value of a binary32 pattern whose fields are known. -/
theorem val32_of_fields {f : Single} {s : Bool} {e m : Nat} (hs : sign32 f = s) (he : exp32 f = e) (hm : man32 f = m) :
    val32 f = signUnit s *
      (if e = 0 then (m : ℚ) / 2 ^ 23 * 2 ^ (-126 : ℤ) else (1 + (m : ℚ) / 2 ^ 23) * 2 ^ ((e : ℤ) - 127)) := by
  subst hs he hm; rfl

end Sys2Proof.Machine
end

