-- ==== Sys2Proof/Laws/State.lean ====
section
/-! SUPPORT. One lemma per field of State per update, and the fields of the reset state. -/

namespace Sys2Proof.Machine

@[simp] theorem State.respond_params (s : State) (r : Response) : (s.respond r).params = s.params := rfl
@[simp] theorem State.respond_req (s : State) (r : Response) : (s.respond r).req = s.req := rfl
@[simp] theorem State.respond_undriven (s : State) (r : Response) : (s.respond r).undriven = s.undriven := rfl
@[simp] theorem State.respond_out (s : State) (r : Response) : (s.respond r).out = r := rfl

@[simp] theorem State.present_params (s : State) (w : ReqWord) : (s.present w).params = s.params := rfl
@[simp] theorem State.present_req (s : State) (w : ReqWord) : (s.present w).req = w := rfl
@[simp] theorem State.present_undriven (s : State) (w : ReqWord) : (s.present w).undriven = 0 := rfl
@[simp] theorem State.present_out (s : State) (w : ReqWord) : (s.present w).out = s.out := rfl

@[simp] theorem State.withFetchWord_params (s : State) (n w : Nat) : (s.withFetchWord n w).params = s.params := rfl
@[simp] theorem State.withFetchWord_req (s : State) (n w : Nat) : (s.withFetchWord n w).req = tableWord n w := rfl
@[simp] theorem State.withFetchWord_undriven (s : State) (n w : Nat) : (s.withFetchWord n w).undriven = 0 := rfl
@[simp] theorem State.withFetchWord_out (s : State) (n w : Nat) : (s.withFetchWord n w).out = s.out := rfl

@[simp] theorem State.reset_params : State.reset.params = Params.default := rfl
@[simp] theorem State.reset_req : State.reset.req = 0 := rfl
@[simp] theorem State.reset_undriven : State.reset.undriven = 0 := rfl
@[simp] theorem State.reset_out : State.reset.out = { y := 0, txt := 0, tlen := 0, ill := 0 } := rfl

/-- Presenting a word forgets the word before it. -/
@[simp] theorem State.present_present (s : State) (v w : ReqWord) : (s.present v).present w = s.present w := rfl

/-- Answering forgets the answer before it. -/
@[simp] theorem State.respond_respond (s : State) (q r : Response) : (s.respond q).respond r = s.respond r := rfl

end Sys2Proof.Machine
end

