-- ==== Sys2Proof/Laws/Ops.lean ====
section
/-! SUPPORT. What the shared operations do: the ports each delivery drives, and the characters of a packed
text. -/

namespace Sys2Proof.Machine

theorem deliverWord_eq (y : BitVec 32) : deliverWord y = { y := y, txt := 0, tlen := 0, ill := 0 } := rfl

theorem deliverHalf_eq (r : Half) : deliverHalf r = { y := r.setWidth 32, txt := 0, tlen := 0, ill := 0 } := rfl

theorem deliverSingle_eq (r : Single) : deliverSingle r = { y := r, txt := 0, tlen := 0, ill := 0 } := rfl

theorem deliverBool_eq (b : Bool) :
    deliverBool b = { y := if b then 1 else 0, txt := 0, tlen := 0, ill := 0 } := by
  cases b <;> rfl

theorem deliverInt_eq (c : Int) : deliverInt c = { y := BitVec.ofInt 32 c, txt := 0, tlen := 0, ill := 0 } := rfl

/-- The character below the rest of a packed text. -/
theorem charAt_packText_zero (c : Char) (cs : List Char) :
    (charAt (packText (c :: cs)) 0).toNat = c.toNat % 256 := by
  simp only [charAt, packText, BitVec.extractLsb'_toNat, BitVec.toNat_or, BitVec.toNat_shiftLeft, BitVec.toNat_ofNat,
    Nat.mul_zero, Nat.shiftRight_zero]
  rw [show (2 : Nat) ^ 8 = 256 from rfl]
  apply Nat.eq_of_testBit_eq
  intro i
  rw [show (256 : Nat) = 2 ^ 8 from rfl]
  simp only [Nat.testBit_mod_two_pow, Nat.testBit_or, Nat.testBit_shiftLeft]
  by_cases hi : i < 8
  · have h1 : ¬ 8 ≤ i := by omega
    have h2 : i < 96 := by omega
    simp [hi, h1, h2]
  · simp [hi]

/-- The characters above the lowest one are those of the shorter text, within the twelve of the port. -/
theorem charAt_packText_succ (c : Char) (cs : List Char) (k : Nat) (hk : k < 11) :
    charAt (packText (c :: cs)) (k + 1) = charAt (packText cs) k := by
  apply BitVec.eq_of_getLsbD_eq
  intro i hi
  simp only [charAt, packText, BitVec.getLsbD_extractLsb', BitVec.getLsbD_or, BitVec.getLsbD_shiftLeft,
    BitVec.getLsbD_ofNat]
  have h1 : 8 * (k + 1) + i < 96 := by omega
  have h2 : ¬ 8 * (k + 1) + i < 8 := by omega
  have h3 : 8 * (k + 1) + i - 8 = 8 * k + i := by omega
  have h4 : (c.toNat % 256).testBit (8 * (k + 1) + i) = false := by
    apply Nat.testBit_eq_false_of_lt
    calc c.toNat % 256 < 2 ^ 8 := by omega
      _ ≤ 2 ^ (8 * (k + 1) + i) := Nat.pow_le_pow_right (by norm_num) (by omega)
  simp [hi, h1, h2, h3, h4]

end Sys2Proof.Machine
end

