-- ==== Sys2Proof/Laws/PerInstr.lean ====
section
/-! SUPPORT. Statements made for every instruction, one lemma per constructor.

Family Legal: the request an instruction stands for is legal, so every instruction has a request word that
the unit executes (R77 of 30_encoding.md). -/

namespace Sys2Proof.Laws.Legal

/-- The instruction is well formed. -/
def Statement (i : Instr) : Prop := i.wellFormed = true

theorem toHalf (f : Single) (ignB : BitVec 16) : Statement (.toHalf f ignB) := rfl
theorem toFloat (h : Half) (ignHi ignB : BitVec 16) : Statement (.toFloat h ignHi ignB) := rfl
theorem isNan (h : Half) (ignHi ignB : BitVec 16) : Statement (.isNan h ignHi ignB) := rfl
theorem isInf (h : Half) (ignHi ignB : BitVec 16) : Statement (.isInf h ignHi ignB) := rfl
theorem isNorm (h : Half) (ignHi ignB : BitVec 16) : Statement (.isNorm h ignHi ignB) := rfl
theorem eq (a b : Half) (ignHi : BitVec 16) : Statement (.eq a b ignHi) := rfl
theorem lt (a b : Half) (ignHi : BitVec 16) : Statement (.lt a b ignHi) := rfl
theorem le (a b : Half) (ignHi : BitVec 16) : Statement (.le a b ignHi) := rfl
theorem gt (a b : Half) (ignHi : BitVec 16) : Statement (.gt a b ignHi) := rfl
theorem ge (a b : Half) (ignHi : BitVec 16) : Statement (.ge a b ignHi) := rfl
theorem cmp (a b : Half) (ignHi : BitVec 16) : Statement (.cmp a b ignHi) := rfl
theorem min (a b : Half) (ignHi : BitVec 16) : Statement (.min a b ignHi) := rfl
theorem max (a b : Half) (ignHi : BitVec 16) : Statement (.max a b ignHi) := rfl
theorem ceil (h : Half) (ignHi ignB : BitVec 16) : Statement (.ceil h ignHi ignB) := rfl
theorem floor (h : Half) (ignHi ignB : BitVec 16) : Statement (.floor h ignHi ignB) := rfl
theorem rint (h : Half) (ignHi ignB : BitVec 16) : Statement (.rint h ignHi ignB) := rfl
theorem trunc (h : Half) (ignHi ignB : BitVec 16) : Statement (.trunc h ignHi ignB) := rfl
theorem toHex (h : Half) (ignHi ignB : BitVec 16) : Statement (.toHex h ignHi ignB) := rfl

end Sys2Proof.Laws.Legal
end

