-- ==== Sys2Proof/Tests/Slice0.lean ====
section
/-! SUPPORT. Tests. Expected results are the spec's own: the tables of 95_test_vectors.md (W<n> and sections 2.1
to 2.7) and the examples of the rules; the words of the decode tests are written out field by field from R70
and R75 (30_encoding.md). Then one witness theorem per statement with hypotheses. -/

namespace Sys2Proof.Tests

open Sys2Proof.Machine

/-- The response to a request word presented to a machine in state `s`. -/
def answerIn (s : State) (w : Nat) : Option Response :=
  match step (s.withFetchWord 64 w) with
  | .next t => some t.out
  | .fault _ => none
  | .refused _ => none

/-- The response to a request word under the default parameters. -/
def answer (w : Nat) : Option Response := answerIn State.reset w

/-- A response on Y alone. -/
def onY (y : Nat) : Option Response := some { y := BitVec.ofNat 32 y, txt := 0, tlen := 0, ill := 0 }

/-- A text response. -/
def onTxt (t n : Nat) : Option Response :=
  some { y := 0, txt := BitVec.ofNat 96 t, tlen := BitVec.ofNat 4 n, ill := 0 }

/-- The reset state of a build with other parameters. -/
def build (p : Params) : State := { State.reset with params := p }

/-! ### Well-formedness: an ill-formed term for each check -/

theorem test_wf_refuses_reserved_bits :
    legalRequest { a := 0, b := 0, op := 0x00#5, rsv := 0x001#11 } = false := by decide
theorem test_wf_refuses_reserved_op :
    legalRequest { a := 0, b := 0, op := 0x12#5, rsv := 0 } = false := by decide
theorem test_wf_accepts_last_op :
    legalRequest { a := 0, b := 0, op := 0x11#5, rsv := 0 } = true := by decide
theorem test_wf_refuses_qnan16_that_is_infinity :
    ({ Params.default with qnan16 := 0x7c00#16 } : Params).wellFormed = false := by decide

/-! ### Decoding: RSV, OP, B, A from left to right -/

theorem test_decode_tohalf :
    decode 0b00000000000_00000_0000000000000001_10111111100000000000000000000000#64 =
      .ok (.toHalf 0xBF800000#32 0x0001#16) := by decide
theorem test_decode_tofloat :
    decode 0b00000000000_00001_0000000000000010_0000000000000011_0011110000000000#64 =
      .ok (.toFloat 0x3C00#16 0x0003#16 0x0002#16) := by decide
theorem test_decode_isnan :
    decode 0b00000000000_00010_0000000000000000_0000000000000000_0111111000000000#64 =
      .ok (.isNan 0x7E00#16 0 0) := by decide
theorem test_decode_isinf :
    decode 0b00000000000_00011_0000000000000000_0000000000000000_0111110000000000#64 =
      .ok (.isInf 0x7C00#16 0 0) := by decide
theorem test_decode_isnorm :
    decode 0b00000000000_00100_0000000000000000_0000000000000000_0000010000000000#64 =
      .ok (.isNorm 0x0400#16 0 0) := by decide
theorem test_decode_eq :
    decode 0b00000000000_00101_1000000000000000_0001001000110100_0000000000000001#64 =
      .ok (.eq 0x0001#16 0x8000#16 0x1234#16) := by decide
theorem test_decode_lt :
    decode 0b00000000000_00110_0100000000000000_0000000000000000_0011110000000000#64 =
      .ok (.lt 0x3C00#16 0x4000#16 0) := by decide
theorem test_decode_le :
    decode 0b00000000000_00111_0100000000000000_0000000000000000_0011110000000000#64 =
      .ok (.le 0x3C00#16 0x4000#16 0) := by decide
theorem test_decode_gt :
    decode 0b00000000000_01000_0100000000000000_0000000000000000_0011110000000000#64 =
      .ok (.gt 0x3C00#16 0x4000#16 0) := by decide
theorem test_decode_ge :
    decode 0b00000000000_01001_0100000000000000_0000000000000000_0011110000000000#64 =
      .ok (.ge 0x3C00#16 0x4000#16 0) := by decide
theorem test_decode_cmp :
    decode 0b00000000000_01010_1000000000000000_0000000000000000_0000000000000000#64 =
      .ok (.cmp 0x0000#16 0x8000#16 0) := by decide
theorem test_decode_min :
    decode 0b00000000000_01011_1000000000000000_0000000000000000_0000000000000000#64 =
      .ok (.min 0x0000#16 0x8000#16 0) := by decide
theorem test_decode_max :
    decode 0b00000000000_01100_1000000000000000_0000000000000000_0000000000000000#64 =
      .ok (.max 0x0000#16 0x8000#16 0) := by decide
theorem test_decode_ceil :
    decode 0b00000000000_01101_0000000000000000_0000000000000000_1011001001100110#64 =
      .ok (.ceil 0xB266#16 0 0) := by decide
theorem test_decode_floor :
    decode 0b00000000000_01110_0000000000000000_0000000000000000_0011001001100110#64 =
      .ok (.floor 0x3266#16 0 0) := by decide
theorem test_decode_rint :
    decode 0b00000000000_01111_0000000000000000_0000000000000000_0100000100000000#64 =
      .ok (.rint 0x4100#16 0 0) := by decide
theorem test_decode_trunc :
    decode 0b00000000000_10000_0000000000000000_0000000000000000_1011100110011010#64 =
      .ok (.trunc 0xB99A#16 0 0) := by decide
theorem test_decode_tohex :
    decode 0b00000000000_10001_0000000000000000_0000000000000000_0111101111111111#64 =
      .ok (.toHex 0x7BFF#16 0 0) := by decide
theorem test_decode_rejects_reserved_op :
    decode 0b00000000000_10010_0000000000000000_0000000000000000_0000000000000000#64 = .error .reservedOp := by decide
theorem test_decode_rejects_reserved_bits :
    decode 0b00000000001_00000_0000000000000000_0000000000000000_0011110000000000#64 = .error .reservedBits := by
  decide
theorem test_table_word_decodes : decodeTableWord 64 0x000A800000000000 = some (.cmp 0x0000#16 0x8000#16 0) := by
  decide

/-! ### One request each (95_test_vectors.md) -/

-- W9, the carry into the exponent, and 2.1, the largest subnormal plus a half: a carry to MIN_NORMAL
theorem test_tohalf_carry : answer 0x0000000039FFF000 = onY 0x1000 := by decide
theorem test_tohalf_subnormal_carry : answer 0x00000000387FE000 = onY 0x0400 := by decide
-- W8 (subnormal) and 2.2 (1023 × 2^-24)
theorem test_tofloat_subnormal : answer 0x00010000000003FF = onY 0x387FC000 := by decide
-- 2.2, a NaN with payload under PRESERVE_QUIET, and under CANONICAL
theorem test_tofloat_nan : answer 0x000100000000FC01 = onY 0xFFC02000 := by decide
theorem test_tofloat_nan_canonical :
    answerIn (build { Params.default with toFloatNan := .canonical }) 0x000100000000FC01 = onY 0x7FC00000 := by decide
-- 2.3
theorem test_isnan_infinity : answer 0x000200000000FC00 = onY 0 := by decide
theorem test_isnan_all_ones : answer 0x000200000000FFFF = onY 1 := by decide
theorem test_isinf_negative : answer 0x000300000000FC00 = onY 1 := by decide
theorem test_isinf_nan : answer 0x0003000000007C01 = onY 0 := by decide
theorem test_isnorm_exponent_one : answer 0x0004000000000400 = onY 1 := by decide
theorem test_isnorm_exponent_thirty : answer 0x000400000000FBFF = onY 1 := by decide
-- W10 and 2.4
theorem test_eq_zeros : answer 0x0005800000000000 = onY 1 := by decide
theorem test_eq_nan_itself : answer 0x00057E0000007E00 = onY 0 := by decide
theorem test_lt_negative : answer 0x0006BC000000C000 = onY 1 := by decide
theorem test_lt_zeros : answer 0x0006000000008000 = onY 0 := by decide
theorem test_le_zeros : answer 0x0007800000000000 = onY 1 := by decide
theorem test_le_nan : answer 0x00077E0000007E00 = onY 0 := by decide
theorem test_gt_nan_infinity : answer 0x00087C0000007E00 = onY 0 := by decide
theorem test_gt_subnormals : answer 0x0008800100000001 = onY 1 := by decide
theorem test_ge_negative : answer 0x0009BC000000C000 = onY 0 := by decide
theorem test_ge_zeros : answer 0x0009000000008000 = onY 1 := by decide
theorem test_cmp_negative_zero_below : answer 0x000A000000008000 = onY 0xFFFFFFFF := by decide
theorem test_cmp_nan_above_infinity : answer 0x000A7C0000007E00 = onY 1 := by decide
-- W17, W18, and 2.4's NaN rows
theorem test_min_zeros : answer 0x000B800000000000 = onY 0x8000 := by decide
theorem test_min_nan : answer 0x000BFE0000003C00 = onY 0x7E00 := by decide
theorem test_max_zeros : answer 0x000C800000000000 = onY 0x0000 := by decide
theorem test_max_subnormals : answer 0x000C800100000001 = onY 0x0001 := by decide
-- W19 to W24 and 2.5
theorem test_ceil_negative_fraction : answer 0x000D00000000B266 = onY 0x8000 := by decide
theorem test_ceil_carry : answer 0x000D0000000063FF = onY 0x6400 := by decide
theorem test_floor_least_negative : answer 0x000E000000008001 = onY 0xBC00 := by decide
theorem test_floor_negative_carry : answer 0x000E00000000E3FF = onY 0xE400 := by decide
theorem test_rint_tie_down : answer 0x000F000000004100 = onY 0x4000 := by decide
theorem test_rint_half : answer 0x000F000000003800 = onY 0x0000 := by decide
theorem test_trunc_negative_zero : answer 0x001000000000B99A = onY 0x8000 := by decide
theorem test_trunc_nan_quiet :
    answerIn (build { Params.default with roundNan := .quiet }) 0x0010000000007C01 = onY 0x7E01 := by decide
-- 2.6
theorem test_tohex_lowest_value : answer 0x001100000000FBFF = onTxt 0x003531706666332E3178302D 11 := by decide
theorem test_tohex_run2 :
    answerIn (build { Params.default with hexTrim := .run2 }) 0x0011000000000100 =
      onTxt 0x00000034312D70312E307830 9 := by decide
-- 2.7
theorem test_illegal_op : answer 0x001F000000000000 = some { y := 0, txt := 0, tlen := 0, ill := 1 } := by decide
theorem test_illegal_rsv : answer 0x8001000000003C00 = some { y := 0, txt := 0, tlen := 0, ill := 1 } := by decide
theorem test_ignored_fields : answer 0x0001ABCDFFFF3C00 = onY 0x3F800000 := by decide

/-! ### The assembler: the lines of W10, 2.6 and the decimal operands of G9 (93_implementation_defined.md) -/

theorem test_asm_constants :
    assembleLine Params.default "EQ POSITIVE_ZERO, NEGATIVE_ZERO".toList = some 0x0005800000000000#64 := by decide
theorem test_asm_decimal : assembleLine Params.default "TOHALF 0.2f ; 0.2".toList = some 0x3E4CCCCD#64 := by decide
theorem test_asm_decimal_exponent :
    assembleLine Params.default "TOHALF 5.96046e-9f".toList = some 0x31CCCCC3#64 := by decide
theorem test_asm_missing_operand : assembleLine Params.default "EQ 0x0001".toList = none := by decide

/-! ### Witnesses: the hypotheses of each statement can be met -/

/-- A state whose outputs are not those of reset. -/
def dirty : State := { State.reset with out := { y := 5, txt := 0, tlen := 0, ill := 0 } }

theorem witness_EncodeOfDecodeIsTheWord : decode 0#64 = .ok (.toHalf 0 0) := by decide

theorem witness_AssembledWordsHaveZeroIgnoredFields :
    (Op.toHalf.format = .f32 ∧ operandValue32 Params.default (.hex 0xFFFFFFFF) = some 0xFFFFFFFF#32) ∧
    (Op.toFloat.format = .h1 ∧ operandValue16 Params.default (.hex 0xFFFF) = some 0xFFFF#16) ∧
    (Op.eq.format = .h2 ∧ operandValue16 Params.default (.const .nan) = some 0x7E00#16 ∧
      operandValue16 Params.default (.hex 0) = some 0x0000#16) := by decide

theorem witness_OperandsAreTheNamedFieldsAndTheRestIsIgnored :
    (decode 0#64 = .ok (.toHalf 0 0) ∧ Op.toHalf.format = .f32) ∧
    (decode 0x0011FFFFFFFFFFFF#64 = .ok (.toHex 0xFFFF#16 0xFFFF#16 0xFFFF#16) ∧ Op.toHex.format = .h1) ∧
    (decode 0x000CFFFFFFFFFFFF#64 = .ok (.max 0xFFFF#16 0xFFFF#16 0xFFFF#16) ∧ Op.max.format = .h2) ∧
    ((Instr.toHex 0 1 2).op = (Instr.toHex 0 0 0).op ∧
      instrOperands (.toHex 0 1 2) = instrOperands (.toHex 0 0 0)) := by decide

theorem witness_StepRunsTheDecodedInstruction :
    State.reset.undriven = 0 ∧ decode State.reset.req = .ok (.toHalf 0 0) := by decide

theorem witness_StepIsTheUnitFunction : dirty.undriven = 0 := by decide

theorem witness_IllegalWordSetsIllAndNothingElse :
    ((State.reset.present 0x0020000000000000#64).undriven = 0 ∧
      (State.reset.present 0x0020000000000000#64).req.extractLsb' 53 11 ≠ 0) ∧
    0x12 ≤ ((State.reset.present 0x0012000000000000#64).req.extractLsb' 48 5).toNat ∧
    ((State.reset.present 0x0011000000000000#64).req.extractLsb' 53 11 = 0 ∧
      ((State.reset.present 0x0011000000000000#64).req.extractLsb' 48 5).toNat < 0x12) := by decide

theorem witness_IllIsNotSticky :
    (0x0020000000000000#64).extractLsb' 53 11 ≠ 0 ∧ 0x12 ≤ ((0x0012000000000000#64).extractLsb' 48 5).toNat := by
  decide

theorem witness_NoInputTraps : (State.reset.present 0xFFFFFFFFFFFFFFFF#64).undriven = 0 := by decide

theorem witness_ResponseDependsOnTheRequestAlone :
    State.reset.params = dirty.params ∧ State.reset.req = dirty.req ∧ State.reset.undriven = 0 ∧
      dirty.undriven = 0 ∧ State.reset.out ≠ dirty.out := by decide

theorem witness_StepSettlesAndRepeatingItChangesNothing : step dirty = .next State.reset := rfl

theorem witness_ResultsAreDeliveredByKind :
    Op.toHalf.result = .h16 ∧ Op.toFloat.result = .f32 ∧ Op.eq.result = .bool ∧ Op.cmp.result = .int ∧
      Op.toHex.result = .text := by decide

theorem witness_UndrivenRequestIsRefused :
    ({ State.reset with undriven := 1 } : State).undriven ≠ 0 := by decide

theorem witness_StepKeepsTheInvariant : dirty.Inv ∧ step dirty = .next State.reset := by
  refine ⟨⟨by decide, by decide, by decide, fun k _ => ?_⟩, rfl⟩
  simp [dirty, charAt]

theorem witness_NumericKeyOrdersByValue :
    isNan16 0x0000#16 = false ∧ isNan16 0x8000#16 = false ∧ nkey 0x0000#16 = nkey 0x8000#16 ∧
      (0x0000#16 : Half) ≠ 0x8000#16 := by decide

theorem witness_TotalKeyRanksNanTopAndSplitsTheZeros :
    isNan16 0x7C01#16 = true ∧ isNan16 0x7C00#16 = false ∧ (0x7C00#16).getLsbD 15 = false ∧
      isNan16 0xFC00#16 = false ∧ (0xFC00#16).getLsbD 15 = true ∧
      exp16 0x8001#16 ≠ 31 ∧ exp16 0x0001#16 ≠ 31 ∧ nkey 0x0000#16 ≠ nkey 0x0001#16 := by decide

theorem witness_TotalKey_negative : val16 0x8001#16 < 0 ∧ val16 0xFBFF#16 < 0 := by
  have h1 : val16 0x8001#16 = _ := val16_of_fields (s := true) (e := 0) (m := 1) (by decide) (by decide) (by decide)
  have h2 : val16 0xFBFF#16 = _ := val16_of_fields (s := true) (e := 30) (m := 1023) (by decide) (by decide) (by decide)
  rw [h1, h2]; norm_num [signUnit]

theorem witness_TotalKey_positive : 0 < val16 0x0001#16 ∧ 0 < val16 0x7BFF#16 := by
  have h1 : val16 0x0001#16 = _ := val16_of_fields (s := false) (e := 0) (m := 1) (by decide) (by decide) (by decide)
  have h2 : val16 0x7BFF#16 = _ := val16_of_fields (s := false) (e := 30) (m := 1023) (by decide) (by decide) (by decide)
  rw [h1, h2]; norm_num [signUnit]

theorem witness_GtAnswersNumericallyGreater : isNan16 0x7E00#16 = true := by decide

theorem witness_PredicateLaws :
    (isNan16 0x7C00#16 = false ∧ isNan16 0xFC00#16 = false) ∧ isNan16 0x7C01#16 = true := by decide

theorem witness_CmpAnswersTheTotalOrder :
    isNan16 0x7C01#16 = true ∧ isNan16 0x7C00#16 = false ∧ isNan16 0xFFFF#16 = true := by decide

theorem witness_CmpIsATotalOrder :
    (cmpHalf 0x8000#16 0x0000#16 ≤ 0 ∧ cmpHalf 0x0000#16 0x7E00#16 ≤ 0) ∧
    (isNan16 0x0001#16 = false ∧ isNan16 0x0000#16 = false ∧ ¬(mag16 0x0001#16 = 0 ∧ mag16 0x0000#16 = 0)) := by
  decide

theorem witness_MinAndMax :
    isNan16 0x7C01#16 = true ∧ isNan16 0x7C00#16 = false ∧ isNan16 0xFC00#16 = false ∧
      tkey 0x7C00#16 = tkey 0x7C00#16 := by decide

theorem witness_ToHalfRoundsToNearestEven :
    (exp32 0x7F800001#32 = 255 ∧ man32 0x7F800001#32 ≠ 0) ∧ (exp32 0xFF800000#32 = 255 ∧ man32 0xFF800000#32 = 0) ∧
      exp32 0x7F7FFFFF#32 ≠ 255 := by decide

theorem witness_ToHalfSaturatesAt65520 :
    (exp32 0x477FF000#32 ≠ 255 ∧ 65520 ≤ |val32 0x477FF000#32|) ∧
    (exp32 0x477FEFFF#32 ≠ 255 ∧ |val32 0x477FEFFF#32| < 65520) := by
  have h1 : val32 0x477FF000#32 = _ :=
    val32_of_fields (s := false) (e := 142) (m := 0x7FF000) (by decide) (by decide) (by decide)
  have h2 : val32 0x477FEFFF#32 = _ :=
    val32_of_fields (s := false) (e := 142) (m := 0x7FEFFF) (by decide) (by decide) (by decide)
  rw [h1, h2]
  refine ⟨⟨by decide, ?_⟩, by decide, ?_⟩ <;> norm_num [signUnit]

theorem witness_ToHalfFlushesUpToTwoToMinus25 :
    (exp32 0xB3000000#32 ≠ 255 ∧ |val32 0xB3000000#32| ≤ 2 ^ (-25 : ℤ)) ∧ exp32 0x807FFFFF#32 = 0 ∧
    (exp32 0x33000001#32 ≠ 255 ∧ 2 ^ (-25 : ℤ) < |val32 0x33000001#32| ∧ |val32 0x33000001#32| < 2 ^ (-14 : ℤ)) ∧
    (exp32 0x387FFFFF#32 ≠ 255 ∧ 2 ^ (-25 : ℤ) < |val32 0x387FFFFF#32| ∧ |val32 0x387FFFFF#32| < 2 ^ (-14 : ℤ)) := by
  have h1 : val32 0xB3000000#32 = _ :=
    val32_of_fields (s := true) (e := 102) (m := 0) (by decide) (by decide) (by decide)
  have h2 : val32 0x33000001#32 = _ :=
    val32_of_fields (s := false) (e := 102) (m := 1) (by decide) (by decide) (by decide)
  have h3 : val32 0x387FFFFF#32 = _ :=
    val32_of_fields (s := false) (e := 112) (m := 0x7FFFFF) (by decide) (by decide) (by decide)
  rw [h1, h2, h3]
  refine ⟨⟨by decide, ?_⟩, by decide, ⟨by decide, ?_, ?_⟩, by decide, ?_, ?_⟩ <;> norm_num [signUnit]

theorem witness_ToHalfIsMonotone :
    isNan32 0xFF800000#32 = false ∧ isNan32 0x7F800000#32 = false ∧ extVal32 0xFF800000#32 ≤ extVal32 0x7F800000#32 := by
  refine ⟨by decide, by decide, ?_⟩
  have h : extVal32 0xFF800000#32 = ⊥ := by simp [extVal32, exp32, sign32]
  rw [h]
  exact bot_le

theorem witness_ToHalfOfToFloatGivesTheHalfBack : isNan16 0xFC00#16 = false := by decide

theorem witness_ToFloatOfNormalizedRebiasesTheExponent :
    category16 0x0400#16 = .normalized ∧ category16 0xFBFF#16 = .normalized := by decide

theorem witness_ToFloatOfSubnormalNormalizesTheMantissa :
    (exp16 0x0001#16 = 0 ∧ 2 ^ 0 ≤ man16 0x0001#16 ∧ man16 0x0001#16 < 2 ^ (0 + 1)) ∧
    (exp16 0x83FF#16 = 0 ∧ 2 ^ 9 ≤ man16 0x83FF#16 ∧ man16 0x83FF#16 < 2 ^ (9 + 1)) := by decide

theorem witness_ToFloatOfNanIsANan :
    isNan16 0xFC01#16 = true ∧ Params.default.toFloatNan = .preserveQuiet ∧
      ({ Params.default with toFloatNan := .canonical } : Params).toFloatNan = .canonical := by decide

theorem witness_ToFloatIsExactAndInjective :
    exp16 0x7BFF#16 ≠ 31 ∧ isNan16 0x7C00#16 = false ∧
      toFloat Params.default 0x7C00#16 = toFloat Params.default 0x7C00#16 := by decide

theorem witness_NansComeOnlyFromNans : Params.default.wellFormed = true := by decide

theorem witness_roundings :
    exp16 0x7BFF#16 ≠ 31 ∧ (exp16 0xFC00#16 = 31 ∧ isNan16 0xFC00#16 = false) ∧ isNan16 0x7C01#16 = true := by decide

theorem witness_BitLevelRoundingIsExactRounding : isNan16 0x3801#16 = false := by decide

theorem witness_RoundingKeepsNansInfinitiesAndIntegers :
    isInf16 0xFC00#16 = true ∧ (exp16 0x8000#16 ≠ 31 ∧ ∃ n : ℤ, val16 0x8000#16 = n) ∧
    (exp16 0x6400#16 ≠ 31 ∧ ∃ n : ℤ, val16 0x6400#16 = n) ∧ isNan16 0x7C01#16 = true ∧
      Params.default.roundNan = .pass ∧ ({ Params.default with roundNan := .quiet } : Params).roundNan = .quiet := by
  have h1 : val16 0x8000#16 = _ := val16_of_fields (s := true) (e := 0) (m := 0) (by decide) (by decide) (by decide)
  have h2 : val16 0x6400#16 = _ := val16_of_fields (s := false) (e := 25) (m := 0) (by decide) (by decide) (by decide)
  rw [h1, h2]
  refine ⟨by decide, ⟨by decide, 0, ?_⟩, ⟨by decide, 1024, ?_⟩, by decide, by decide, by decide⟩ <;>
    norm_num [signUnit]

theorem witness_RoundingLaws :
    exp16 0x0001#16 ≠ 31 ∧ sign16 0x0000#16 = false ∧ sign16 0x8000#16 = true ∧
      isNan16 (roundHalf Params.default .rint 0x7C01#16) = true := by decide

theorem witness_ToHexOfSpecialValues : isNan16 0xFFFF#16 = true := by decide

theorem witness_ToHexOfFiniteValuesReadsBack :
    (exp16 0x0001#16 ≠ 31 ∧ mag16 0x0001#16 ≠ 0) ∧ (exp16 0xFBFF#16 ≠ 31 ∧ mag16 0xFBFF#16 ≠ 0) ∧
      Params.default.hexTrim = .none := by decide

theorem witness_HexTrimChangesThreeMantissas :
    Params.default.hexTrim = .none ∧ ({ Params.default with hexTrim := .run2 } : Params).hexTrim = .run2 := by decide

theorem witness_ToHexWritesOnlyItsCharacterSet : 'f' ∈ toHexChars Params.default 0x7BFF#16 := by decide

theorem witness_ToHexDistinguishesHalves :
    Params.default.hexTrim = .none ∧ isNan16 0x7C00#16 = false ∧
      toHexChars Params.default 0x7C00#16 = toHexChars Params.default 0x7C00#16 := by decide

end Sys2Proof.Tests
end

section
/-! PROOFS of the scope family (00_scope.md). The invariant of a step: every answer is a word on Y, a text of
the hex formatter or the answer to an illegal word, and each of the three has the shape of a response. -/

namespace Sys2Proof.Machine

/-! ### Packed text above its last character -/

/-- The port has no bits above its twelve characters. -/
theorem charAt_of_twelve_le (t : Text) {k : Nat} (hk : 12 ≤ k) : charAt t k = 0 := by
  apply BitVec.eq_of_getLsbD_eq
  intro i hi
  simp only [charAt, BitVec.getLsbD_extractLsb', BitVec.getLsbD_of_ge t (8 * k + i) (by omega)]
  simp

/-- PACK leaves every character from the length of the text on 0 (R207 of 44_hex_formatter.md). -/
theorem charAt_packText_of_length_le {cs : List Char} {k : Nat} (hk : cs.length ≤ k) :
    charAt (packText cs) k = 0 := by
  by_cases hport : 12 ≤ k
  · exact charAt_of_twelve_le _ hport
  induction cs generalizing k with
  | nil => simp [packText, charAt]
  | cons c cs ih =>
    obtain ⟨j, rfl⟩ : ∃ j, k = j + 1 := Nat.exists_eq_succ_of_ne_zero (by simp at hk; omega)
    rw [charAt_packText_succ c cs j (by omega)]
    exact ih (by simpa using hk) (by omega)

/-! ### The length of the formatter's text (R203 of 44_hex_formatter.md) -/

theorem length_numeral_le (base fuel n : Nat) : (numeral base fuel n).length ≤ fuel := by
  induction fuel generalizing n with
  | zero => simp [numeral]
  | succ fuel ih =>
    unfold numeral
    split
    · simp
    · simpa using ih (n / base)

/-- HEX_TRIM only ever drops mantissa digits (R206 of 44_hex_formatter.md). -/
theorem length_mantissaDigits_le (p : Params) (m : Nat) : (mantissaDigits p m).length ≤ 3 := by
  have hdigits : (digits m).length ≤ 3 := length_numeral_le 16 3 m
  unfold mantissaDigits
  split
  · exact hdigits
  · split
    · exact (List.length_take_le' _ _).trans hdigits
    · exact hdigits

theorem length_dec_le (k : Int) : (dec k).length ≤ 3 := by
  have hnumeral := length_numeral_le 10 2 k.natAbs
  unfold dec
  split <;> simp <;> omega

/-- TOHEX writes 3 to 12 characters (R203 of 44_hex_formatter.md). -/
theorem length_toHexChars (p : Params) (h : Half) :
    3 ≤ (toHexChars p h).length ∧ (toHexChars p h).length ≤ 12 := by
  have hsign : (if sign16 h then ['-'] else []).length ≤ 1 := by split <;> simp
  have hmantissa := length_mantissaDigits_le p (man16 h)
  have hexponent := length_dec_le ((exp16 h : Int) - 15)
  simp only [toHexChars]
  split_ifs <;> simp at hsign ⊢ <;> omega

/-! ### The shape of each kind of response -/

theorem shaped_illegalResponse : illegalResponse.Shaped :=
  ⟨by decide, by decide, fun k _ => by simp [illegalResponse, charAt]⟩

theorem shaped_deliverWord (y : BitVec 32) : (deliverWord y).Shaped := by
  rw [deliverWord_eq]
  exact ⟨by simp, by simp, fun k _ => by simp [charAt]⟩

/-- A text of at most twelve characters has its own length on TLEN, which does not wrap. -/
theorem toNat_tlen_deliverText {cs : List Char} (h : cs.length ≤ 12) :
    (deliverText cs).tlen.toNat = cs.length := by
  simp only [deliverText, BitVec.toNat_ofNat]
  omega

theorem shaped_deliverText {cs : List Char} (h3 : 3 ≤ cs.length) (h12 : cs.length ≤ 12) :
    (deliverText cs).Shaped := by
  have htlen := toNat_tlen_deliverText h12
  refine ⟨by simp [deliverText], fun _ => ⟨rfl, by omega, by omega⟩, fun k hk => ?_⟩
  exact charAt_packText_of_length_le (htlen ▸ hk)

/-! ### What a step answers -/

/-- Every instruction delivers a word on Y alone, or a text of the hex formatter (R37 of 10_state.md). -/
theorem exec_delivers_word_or_text (i : Instr) (s : State) :
    (∃ y, exec i s = .next (s.respond (deliverWord y))) ∨
    (∃ h, exec i s = .next (s.respond (deliverText (toHexChars s.params h)))) := by
  cases i with
  | toHex h _ _ => exact .inr ⟨h, rfl⟩
  | _ => exact .inl ⟨_, rfl⟩

theorem exec_shaped (i : Instr) (s : State) : ∃ r, exec i s = .next (s.respond r) ∧ r.Shaped := by
  obtain ⟨y, hy⟩ | ⟨h, hh⟩ := exec_delivers_word_or_text i s
  · exact ⟨_, hy, shaped_deliverWord y⟩
  · obtain ⟨h3, h12⟩ := length_toHexChars s.params h
    exact ⟨_, hh, shaped_deliverText h3 h12⟩

/-- A step that gives a next state only settles the outputs, to a response in shape. -/
theorem step_next_shaped {s t : State} (hstep : step s = .next t) : ∃ r, t = s.respond r ∧ r.Shaped := by
  unfold step at hstep
  split at hstep
  · cases hstep
  · split at hstep
    next i _ =>
      obtain ⟨r, hr, hshaped⟩ := exec_shaped i s
      rw [hr] at hstep
      cases hstep
      exact ⟨r, rfl, hshaped⟩
    next =>
      cases hstep
      exact ⟨illegalResponse, rfl, shaped_illegalResponse⟩

/-- Settles O18: a step leaves the parameters alone, and each of the three kinds of answer is in shape. -/
theorem stepKeepsTheInvariant : Obligations.StepKeepsTheInvariant := by
  rintro s t ⟨hqnan, -⟩ hstep
  obtain ⟨r, rfl, hshaped⟩ := step_next_shaped hstep
  exact ⟨hqnan, hshaped⟩

/-! ### Reset -/

/-- The word 0 asks for TOHALF of +0.0, whose answer is +0.0 in every build (R76 of 30_encoding.md). -/
theorem unit_zero (p : Params) : unit p 0 = deliverHalf positiveZero := rfl

theorem reset_settled : State.reset.Settled := by
  refine ⟨State.reset_undriven, ?_⟩
  rw [State.reset_params, State.reset_req, unit_zero]
  rfl

/-- Settles O16: the defaults are those of R7 by definition, and the outputs answer the word 0. -/
theorem resetHasTheDefaultsAndSettledOutputs : Obligations.ResetHasTheDefaultsAndSettledOutputs :=
  ⟨rfl, rfl, rfl, rfl, reset_settled⟩

end Sys2Proof.Machine
end

section
/-! PROOFS of the state family (10_state.md): what an answer depends on, the ports each result kind is
delivered on, the invariant at reset, and the named constants. -/

namespace Sys2Proof.Machine

/-! ### What an answer depends on -/

/-- A step on a driven legal word runs its instruction. -/
theorem step_of_decode_ok {s : State} {i : Instr} (hdriven : s.undriven = 0) (hd : decode s.req = .ok i) :
    step s = exec i s := by
  simp [step, hdriven, hd]

/-- A step on a driven illegal word gives the answer of R77 (30_encoding.md). -/
theorem step_of_decode_error {s : State} {e : DecodeReject} (hdriven : s.undriven = 0)
    (hd : decode s.req = .error e) : step s = .next (s.respond illegalResponse) := by
  simp [step, hdriven, hd]

/-- An instruction reads nothing of the state but the build parameters. -/
theorem exec_responds_alike (i : Instr) {s s' : State} (hp : s.params = s'.params) :
    ∃ r, exec i s = .next (s.respond r) ∧ exec i s' = .next (s'.respond r) := by
  obtain ⟨p, req, undriven, out⟩ := s
  obtain ⟨p', req', undriven', out'⟩ := s'
  obtain rfl : p = p' := hp
  cases i <;> exact ⟨_, rfl, rfl⟩

/-- Settles O12: both words decode alike, and neither an instruction nor the answer to an illegal word reads the
outputs. -/
theorem responseDependsOnTheRequestAlone : Obligations.ResponseDependsOnTheRequestAlone := by
  intro s s' hp hreq hdriven hdriven'
  cases hd : decode s.req with
  | ok i =>
    rw [step_of_decode_ok hdriven hd, step_of_decode_ok hdriven' (hreq ▸ hd)]
    exact exec_responds_alike i hp
  | error e =>
    exact ⟨illegalResponse, step_of_decode_error hdriven hd, step_of_decode_error hdriven' (hreq ▸ hd)⟩

/-! ### The delivery of each result kind -/

/-- `r` delivers a result of the kind `k` (R37 of 10_state.md, R72 of 30_encoding.md). -/
def Response.Delivers (r : Response) (k : ResultKind) : Prop :=
  match k with
  | .h16 => ∃ h, r = deliverHalf h
  | .f32 => ∃ f, r = deliverSingle f
  | .bool => ∃ b, r = deliverBool b
  | .int => ∃ c : Int, (c = -1 ∨ c = 0 ∨ c = 1) ∧ r = deliverInt c
  | .text => ∃ cs, r = deliverText cs

/-- CMP has three results (R148 of 42_comparator.md). -/
theorem cmpHalf_cases (a b : Half) : cmpHalf a b = -1 ∨ cmpHalf a b = 0 ∨ cmpHalf a b = 1 := by
  unfold cmpHalf
  split_ifs <;> simp

/-- Every instruction answers with a result of the kind R75 (30_encoding.md) gives its operation. -/
theorem exec_delivers_result_kind (i : Instr) (s : State) :
    ∃ r, exec i s = .next (s.respond r) ∧ r.Delivers i.op.result := by
  cases i with
  | cmp a b _ => exact ⟨_, rfl, _, cmpHalf_cases a b, rfl⟩
  | _ => exact ⟨_, rfl, _, rfl⟩

/-- Settles O14: the answer is a delivery of the operation's result kind, and each delivery drives its own ports
alone. -/
theorem resultsAreDeliveredByKind : Obligations.ResultsAreDeliveredByKind := by
  intro i s
  obtain ⟨r, hexec, hr⟩ := exec_delivers_result_kind i s
  rw [hexec]
  refine ⟨fun hk => ?_, fun hk => ?_, fun hk => ?_, fun hk => ?_, fun hk => ?_⟩
  · obtain ⟨h, rfl⟩ : r.Delivers .h16 := hk ▸ hr
    exact ⟨h, rfl⟩
  · obtain ⟨f, rfl⟩ : r.Delivers .f32 := hk ▸ hr
    exact ⟨f, rfl⟩
  · obtain ⟨b, rfl⟩ : r.Delivers .bool := hk ▸ hr
    exact ⟨b, by rw [deliverBool_eq]; rfl⟩
  · obtain ⟨c, hc, rfl⟩ : r.Delivers .int := hk ▸ hr
    refine ⟨BitVec.ofInt 32 c, ?_, rfl⟩
    obtain rfl | rfl | rfl := hc <;> decide
  · obtain ⟨cs, rfl⟩ : r.Delivers .text := hk ▸ hr
    exact ⟨packText cs, BitVec.ofNat 4 cs.length, rfl⟩

/-! ### The invariant at reset -/

/-- The default QNAN16 is a NaN (R7 of 00_scope.md). -/
theorem wellFormed_default : Params.default.wellFormed = true := by decide

/-- Settles O17: the parameters are the defaults, and the outputs are those of the word 0 on Y. -/
theorem resetMeetsTheInvariant : Obligations.ResetMeetsTheInvariant :=
  ⟨wellFormed_default, shaped_deliverWord 0⟩

/-! ### The named constants (R29 of 10_state.md) -/

/-- The exact value of a half is found from its integer in units of 2^-24. -/
theorem val16_of_scaled16 {h : Half} {n : Int} {q : ℚ} (hn : scaled16 h = n) (hq : (n : ℚ) / 2 ^ 24 = q) :
    val16 h = q := by
  rw [val16_eq_scaled16, hn, hq]

theorem val16_positiveZero : val16 positiveZero = 0 :=
  val16_of_scaled16 (n := 0) (by decide) (by norm_num)

theorem val16_negativeZero : val16 negativeZero = 0 :=
  val16_of_scaled16 (n := 0) (by decide) (by norm_num)

theorem val16_maxValue : val16 maxValue = 65504 :=
  val16_of_scaled16 (n := 65504 * 2 ^ 24) (by decide) (by norm_num)

theorem val16_minValue : val16 minValue = 2 ^ (-24 : ℤ) :=
  val16_of_scaled16 (n := 1) (by decide) (by norm_num)

theorem val16_minNormal : val16 minNormal = 2 ^ (-14 : ℤ) :=
  val16_of_scaled16 (n := 2 ^ 10) (by decide) (by norm_num)

theorem val16_lowestValue : val16 lowestValue = -65504 :=
  val16_of_scaled16 (n := -65504 * 2 ^ 24) (by decide) (by norm_num)

theorem extVal16_of_exp16_eq_31 {h : Half} (he : exp16 h = 31) :
    extVal16 h = if sign16 h then ⊥ else ((⊤ : WithTop ℚ) : WithBot (WithTop ℚ)) :=
  if_pos he

theorem extVal16_positiveInfinity : extVal16 positiveInfinity = ((⊤ : WithTop ℚ) : WithBot (WithTop ℚ)) := by
  have hsign : sign16 positiveInfinity = false := by decide
  rw [extVal16_of_exp16_eq_31 (by decide), hsign]
  rfl

theorem extVal16_negativeInfinity : extVal16 negativeInfinity = ⊥ := by
  have hsign : sign16 negativeInfinity = true := by decide
  rw [extVal16_of_exp16_eq_31 (by decide), hsign]
  rfl

/-- Settles O20: the patterns are the definitions, and each value is computed from the pattern's fields. -/
theorem namedConstantsHaveTheirPatternsAndValues : Obligations.NamedConstantsHaveTheirPatternsAndValues :=
  ⟨rfl, rfl, rfl, rfl, rfl, rfl, rfl, rfl, fun _ => rfl, rfl, val16_positiveZero, val16_negativeZero,
    extVal16_positiveInfinity, extVal16_negativeInfinity, val16_maxValue, val16_minValue, val16_minNormal,
    val16_lowestValue⟩

end Sys2Proof.Machine
end

section
/-! PROOFS of the memory family (20_memory.md). A step on a driven word answers with the spec's own case table
of R76 (30_encoding.md), which reads nothing a step changes; so the outputs are settled after it, and the same
request again gives the same state. -/

namespace Sys2Proof.Machine

/-! ### What the decoder reads of a word -/

/-- The half operand in A[15:0] of a word (R71 of 30_encoding.md). -/
theorem operandH_splitRequest (w : ReqWord) : operandH (splitRequest w) = w.extractLsb' 0 16 :=
  BitVec.extractLsb'_extractLsb'_of_le (by decide)

/-- A word that decodes has RSV 0 and the op code of its operation, which makes the instruction of its fields. -/
theorem fields_of_decode_ok {w : ReqWord} {i : Instr} (hd : decode w = .ok i) :
    ∃ o : Op, i = o.instr (splitRequest w) ∧ w.extractLsb' 53 11 = 0 ∧ w.extractLsb' 48 5 = o.code := by
  simp only [decode] at hd
  split at hd
  next => cases hd
  next hrsv =>
    split at hd
    next o ho =>
      cases hd
      exact ⟨o, rfl, not_not.mp hrsv, (Op.code_of_ofCode ho).symm⟩
    next => cases hd

/-- A word that does not decode has one of the two grounds of R77 (30_encoding.md). -/
theorem fields_of_decode_error {w : ReqWord} {e : DecodeReject} (hd : decode w = .error e) :
    w.extractLsb' 53 11 ≠ 0 ∨ 0x12 ≤ (w.extractLsb' 48 5).toNat := by
  simp only [decode] at hd
  split at hd
  next hrsv => exact .inl hrsv
  next =>
    split at hd
    next => cases hd
    next hnone =>
      have hcode := Op.ofCode_isSome (splitRequest w).op
      rw [hnone] at hcode
      exact .inr (not_lt.mp (of_decide_eq_false hcode.symm))

/-! ### The step is the unit function of R76 -/

/-- The unit's answer to an illegal word (R76, R77 of 30_encoding.md). -/
theorem unit_of_illegal (p : Params) {w : ReqWord}
    (h : w.extractLsb' 53 11 ≠ 0 ∨ 0x12 ≤ (w.extractLsb' 48 5).toNat) : unit p w = illegalResponse :=
  if_pos (h.imp_left (mt BitVec.eq_of_toNat_eq))

/-- The row of R76's case table for an operation is the instruction that operation makes of the word. -/
theorem exec_instr_eq_unit (o : Op) (s : State) {w : ReqWord} (hrsv : w.extractLsb' 53 11 = 0)
    (hop : w.extractLsb' 48 5 = o.code) :
    exec (o.instr (splitRequest w)) s = .next (s.respond (unit s.params w)) := by
  simp only [unit, hrsv, hop, ← operandH_splitRequest]
  cases o <;> rfl

/-- A step on a driven word answers it with the unit function of R76 (30_encoding.md). -/
theorem step_eq_respond_unit {s : State} (hdriven : s.undriven = 0) :
    step s = .next (s.respond (unit s.params s.req)) := by
  cases hd : decode s.req with
  | ok i =>
    obtain ⟨o, rfl, hrsv, hop⟩ := fields_of_decode_ok hd
    rw [step_of_decode_ok hdriven hd, exec_instr_eq_unit o s hrsv hop]
  | error e => rw [step_of_decode_error hdriven hd, unit_of_illegal s.params (fields_of_decode_error hd)]

/-- A step that gives a next state had a driven word, and the next state shows the unit's answer. -/
theorem respond_unit_of_step_next {s t : State} (hstep : step s = .next t) :
    s.undriven = 0 ∧ t = s.respond (unit s.params s.req) := by
  obtain ⟨-, hrefused⟩ | ⟨hdriven, -⟩ := step_cases s
  · rw [hrefused] at hstep
    cases hstep
  · rw [step_eq_respond_unit hdriven] at hstep
    cases hstep
    exact ⟨hdriven, rfl⟩

/-! ### A settled state -/

theorem settled_respond_unit {s : State} (hdriven : s.undriven = 0) :
    (s.respond (unit s.params s.req)).Settled :=
  ⟨hdriven, rfl⟩

/-- The answer to the request of a settled state is the one already on its ports. -/
theorem step_of_settled {t : State} (h : t.Settled) : step t = .next t := by
  obtain ⟨hdriven, hout⟩ := h
  rw [step_eq_respond_unit hdriven, ← hout]
  rfl

/-- Settles O13: a step settles the outputs, and a settled state is a fixed point of the step. -/
theorem stepSettlesAndRepeatingItChangesNothing : Obligations.StepSettlesAndRepeatingItChangesNothing := by
  intro s t hstep
  obtain ⟨hdriven, rfl⟩ := respond_unit_of_step_next hstep
  have hsettled := settled_respond_unit hdriven
  exact ⟨hsettled, step_of_settled hsettled⟩

end Sys2Proof.Machine
end

section
/-! PROOFS of the encoding family (30_encoding.md). The four fields make up the word and an instruction's request,
so decode and encode are inverse to each other; from that, what the decoder matches, where operands stand, what the
assembler writes, and what a step answers to legal and to illegal words. -/

namespace Sys2Proof

open Machine

/-! ### The fields of a request word (R70 of 30_encoding.md) -/

theorem joinRequest_splitRequest (w : ReqWord) : joinRequest (splitRequest w) = w := by
  have hrsvOp : w.extractLsb' 53 11 ++ w.extractLsb' 48 5 = w.extractLsb' 48 16 :=
    BitVec.extractLsb'_append_extractLsb'_eq_extractLsb' rfl
  have hrsvOpB : w.extractLsb' 48 16 ++ w.extractLsb' 32 16 = w.extractLsb' 32 32 :=
    BitVec.extractLsb'_append_extractLsb'_eq_extractLsb' rfl
  have hword : w.extractLsb' 32 32 ++ w.extractLsb' 0 32 = w := BitVec.extractLsb'_append_extractLsb'
  simp only [joinRequest, splitRequest, hrsvOp, hrsvOpB, hword]

theorem splitRequest_joinRequest (r : Request) : splitRequest (joinRequest r) = r := by
  obtain ⟨a, b, op, rsv⟩ := r
  have ha : (rsv ++ op ++ b ++ a).extractLsb' 0 32 = a := BitVec.extractLsb'_append_eq_right
  have hb : (rsv ++ op ++ b ++ a).extractLsb' 32 16 = b :=
    (BitVec.extractLsb'_append_eq_of_le (by decide)).trans BitVec.extractLsb'_append_eq_right
  have hop : (rsv ++ op ++ b ++ a).extractLsb' 48 5 = op :=
    (BitVec.extractLsb'_append_eq_of_le (by decide)).trans
      ((BitVec.extractLsb'_append_eq_of_le (by decide)).trans BitVec.extractLsb'_append_eq_right)
  have hrsv : (rsv ++ op ++ b ++ a).extractLsb' 53 11 = rsv :=
    (BitVec.extractLsb'_append_eq_of_le (by decide)).trans
      ((BitVec.extractLsb'_append_eq_of_le (by decide)).trans BitVec.extractLsb'_append_eq_left)
  simp only [splitRequest, joinRequest]
  rw [ha, hb, hop, hrsv]

/-! ### Instructions and their requests (R71 of 30_encoding.md) -/

/-- A[31:16] and A[15:0] make up A. -/
theorem ignoredHi_append_operandH (r : Request) : ignoredHi r ++ operandH r = r.a :=
  BitVec.extractLsb'_append_extractLsb'

/-- The request of the instruction an operation makes of a request keeps the fields A and B. -/
theorem toRequest_instr (o : Op) (r : Request) : (o.instr r).toRequest = { r with op := o.code, rsv := 0 } := by
  have ha := ignoredHi_append_operandH r
  cases o <;> simp only [Op.instr, Instr.toRequest, ha] <;> rfl

theorem toRequest_op (i : Instr) : i.toRequest.op = i.op.code := by cases i <;> rfl

theorem toRequest_rsv (i : Instr) : i.toRequest.rsv = 0 := by cases i <;> rfl

/-- The operation of an instruction makes it again of its request. -/
theorem instr_toRequest (i : Instr) : i.op.instr i.toRequest = i := by
  have hlo (hi lo : Half) : (hi ++ lo : BitVec 32).extractLsb' 0 16 = lo := BitVec.extractLsb'_append_eq_right
  have hhi (hi lo : Half) : (hi ++ lo : BitVec 32).extractLsb' 16 16 = hi := BitVec.extractLsb'_append_eq_left
  cases i <;>
    simp only [Instr.op, Op.instr, Instr.toRequest, operandF32, operandH, operandH2, ignoredHi, ignoredB, hlo, hhi]

/-! ### Decode and encode -/

/-- A word with RSV 0 and the op code of an operation decodes to that operation's instruction. -/
theorem decode_of_fields {w : ReqWord} {o : Op} (hrsv : w.extractLsb' 53 11 = 0)
    (hop : w.extractLsb' 48 5 = o.code) : decode w = .ok (o.instr (splitRequest w)) := by
  simp [decode, splitRequest, hrsv, hop, Op.ofCode_code]

theorem decode_encode (i : Instr) : decode (encode i) = .ok i := by
  have hsplit : splitRequest (encode i) = i.toRequest := splitRequest_joinRequest i.toRequest
  have hrsv : (splitRequest (encode i)).rsv = 0 := by rw [hsplit, toRequest_rsv]
  have hop : (splitRequest (encode i)).op = i.op.code := by rw [hsplit, toRequest_op]
  rw [decode_of_fields hrsv hop, hsplit, instr_toRequest]

/-- Settles O1: the fields of the encoded word are those of the instruction's request, and its operation makes the
instruction again of them. -/
theorem decodeOfEncodeIsTheInstruction : Obligations.DecodeOfEncodeIsTheInstruction := decode_encode

theorem encode_of_decode_ok {w : ReqWord} {i : Instr} (hd : decode w = .ok i) : encode i = w := by
  obtain ⟨o, rfl, hrsv, hop⟩ := fields_of_decode_ok hd
  calc encode (o.instr (splitRequest w))
      = joinRequest { splitRequest w with op := o.code, rsv := 0 } := congrArg joinRequest (toRequest_instr o _)
    _ = joinRequest (splitRequest w) := by rw [← hop, ← hrsv]; rfl
    _ = w := joinRequest_splitRequest w

/-- Settles O2: the request of the decoded instruction has the word's own A and B, and the decoder has checked that
its OP and RSV are the word's too. -/
theorem encodeOfDecodeIsTheWord : Obligations.EncodeOfDecodeIsTheWord := fun _ _ => encode_of_decode_ok

/-! ### What the decoder matches (R74 of 30_encoding.md) -/

theorem decodes_to_op_iff_fields (w : ReqWord) (o : Op) :
    (∃ i, decode w = .ok i ∧ i.op = o) ↔ w.extractLsb' 53 11 = 0 ∧ w.extractLsb' 48 5 = o.code := by
  constructor
  · rintro ⟨i, hd, rfl⟩
    obtain ⟨o, rfl, hrsv, hop⟩ := fields_of_decode_ok hd
    exact ⟨hrsv, by rw [Op.op_instr, hop]⟩
  · rintro ⟨hrsv, hop⟩
    exact ⟨_, decode_of_fields hrsv hop, Op.op_instr o _⟩

/-- Under the mask of R74 a word keeps RSV and OP alone. -/
theorem mask_eq_code_iff_fields (w : ReqWord) (c : BitVec 5) :
    w &&& 0xFFFF000000000000#64 = c.setWidth 64 <<< 48 ↔ w.extractLsb' 53 11 = 0 ∧ w.extractLsb' 48 5 = c := by
  have hones : 0xFFFF000000000000#64 = BitVec.allOnes 64 <<< 48 := by decide
  have hmask : w &&& 0xFFFF000000000000#64 = w >>> 48 <<< 48 := by rw [hones, BitVec.shiftLeft_ushiftRight]
  have hzero : (0 : BitVec 11).toNat = 0 := rfl
  have hw := w.isLt
  have hc := c.isLt
  simp only [hmask, hzero, ← BitVec.toNat_inj, BitVec.toNat_shiftLeft, BitVec.toNat_ushiftRight, BitVec.toNat_setWidth,
    BitVec.extractLsb'_toNat, Nat.shiftLeft_eq, Nat.shiftRight_eq_div_pow]
  omega

/-- Settles O3: either side says that RSV is 0 and OP is the op code of the operation. -/
theorem decoderMatchesTheTopSixteenBits : Obligations.DecoderMatchesTheTopSixteenBits := fun w o =>
  (decodes_to_op_iff_fields w o).trans (mask_eq_code_iff_fields w o.code).symm

namespace Machine

/-! ### Assembled words (R80 of 30_encoding.md) -/

/-- The word of an operation's instruction: RSV 0, the op code, and the fields B and A the operation was given. -/
theorem encode_instr (o : Op) (r : Request) : encode (o.instr r) = (0#11 ++ o.code ++ r.b ++ r.a : BitVec 64) := by
  simp only [encode, toRequest_instr, joinRequest, BitVec.ofNat_eq_ofNat]

/-- A half operand in A[15:0] under an ignored A[31:16] of 0. -/
theorem append_setWidth_half (x : BitVec 32) (v : Half) :
    x ++ v.setWidth 32 = (x ++ 0#16 ++ v : BitVec 64) := by
  have hv : v.setWidth 32 = 0#16 ++ v := BitVec.setWidth_eq_append (by decide)
  rw [hv, BitVec.append_assoc, BitVec.cast_eq]

/-- Settles O5: each format's line assembles to its operation's instruction of the operands, whose word has the
fields A and B the operands were placed in. -/
theorem assembledWordsHaveZeroIgnoredFields : Obligations.AssembledWordsHaveZeroIgnoredFields := by
  intro p o x y
  refine ⟨fun v hf hx => ?_, fun v hf hx => ?_, fun v w hf hx hy => ?_⟩
  · simp only [assemble, hf, hx, Option.map_some]
    exact ⟨_, rfl, encode_instr o _⟩
  · simp only [assemble, hf, hx, Option.map_some]
    exact ⟨_, rfl, (encode_instr o _).trans (append_setWidth_half _ v)⟩
  · simp only [assemble, hf, hx, hy]
    exact ⟨_, rfl, (encode_instr o _).trans (append_setWidth_half _ v)⟩

/-! ### Operands and ignored fields (R71 of 30_encoding.md) -/

theorem format_eq_f32_iff (o : Op) : o.format = .f32 ↔ o = .toHalf := by cases o <;> decide

theorem format_eq_h1_iff (o : Op) :
    o.format = .h1 ↔ o ∈ [Op.toFloat, .isNan, .isInf, .isNorm, .ceil, .floor, .rint, .trunc, .toHex] := by
  cases o <;> decide

theorem format_eq_h2_iff (o : Op) :
    o.format = .h2 ↔ o ∈ [Op.eq, .lt, .le, .gt, .ge, .cmp, .min, .max] := by
  cases o <;> decide

/-- An operation's instruction carries the operands of the operation's format. -/
theorem instrOperands_instr (o : Op) (r : Request) : instrOperands (o.instr r) = assembleOperands o.format r := by
  cases o <;> rfl

theorem instrOperands_eq_assembleOperands (i : Instr) : instrOperands i = assembleOperands i.op.format i.toRequest := by
  rw [← instrOperands_instr, instr_toRequest]

theorem instrOperands_of_decode_ok {w : ReqWord} {i : Instr} (hd : decode w = .ok i) :
    instrOperands i = assembleOperands i.op.format (splitRequest w) := by
  obtain ⟨o, rfl, -, -⟩ := fields_of_decode_ok hd
  rw [Op.op_instr, instrOperands_instr]

/-- An operation does the same for two requests with the same operands, whatever its format ignores. -/
theorem exec_instr_congr (o : Op) {r r' : Request} (s : State)
    (h : assembleOperands o.format r = assembleOperands o.format r') :
    exec (o.instr r) s = exec (o.instr r') s := by
  cases o <;>
    simp only [Op.format, assembleOperands, Operands.f32.injEq, Operands.h1.injEq, Operands.h2.injEq] at h <;>
    simp only [Op.instr, exec, h]

theorem exec_congr {i j : Instr} (s : State) (hop : i.op = j.op) (hoperands : instrOperands i = instrOperands j) :
    exec i s = exec j s := by
  rw [instrOperands_eq_assembleOperands, instrOperands_eq_assembleOperands j, ← hop] at hoperands
  have h := exec_instr_congr i.op s hoperands
  rwa [instr_toRequest, hop, instr_toRequest] at h

/-- Settles O6: the format of each operation by the table; the operands of a decoded word are those its format takes
from the word; and the dispatch reads the operands alone. -/
theorem operandsAreTheNamedFieldsAndTheRestIsIgnored : Obligations.OperandsAreTheNamedFieldsAndTheRestIsIgnored := by
  refine ⟨fun o => ⟨format_eq_f32_iff o, format_eq_h1_iff o, format_eq_h2_iff o⟩, fun w i hd => ?_,
    fun i j s => exec_congr s⟩
  have hoperands := instrOperands_of_decode_ok hd
  refine ⟨fun hf => ?_, fun hf => ?_, fun hf => ?_⟩
  · rw [hoperands, hf]; rfl
  · rw [hoperands, hf, ← operandH_splitRequest]; rfl
  · rw [hoperands, hf, ← operandH_splitRequest]; rfl

/-! ### The step (R76, R77 of 30_encoding.md) -/

/-- Settles O8: the decoder and the case table tell the same words apart, and each row answers as the dispatch. -/
theorem stepIsTheUnitFunction : Obligations.StepIsTheUnitFunction := fun _ => step_eq_respond_unit

/-- An instruction never sets ILL. -/
theorem exec_ill_eq_zero (i : Instr) (s : State) : ∃ r, exec i s = .next (s.respond r) ∧ r.ill = 0 := by
  obtain ⟨y, hy⟩ | ⟨h, hh⟩ := exec_delivers_word_or_text i s
  · exact ⟨_, hy, rfl⟩
  · exact ⟨_, hh, rfl⟩

/-- A word with neither ground of R77 decodes. -/
theorem decode_ok_of_legal {w : ReqWord} (hrsv : w.extractLsb' 53 11 = 0) (hop : (w.extractLsb' 48 5).toNat < 0x12) :
    ∃ i, decode w = .ok i := by
  cases hd : decode w with
  | ok i => exact ⟨i, rfl⟩
  | error e =>
    obtain h | h := fields_of_decode_error hd
    · exact absurd hrsv h
    · exact absurd hop (not_lt.mpr h)

/-- Settles O9: the unit answers the words with one of R77's two grounds with ILL; any other word decodes, and no
instruction sets ILL. -/
theorem illegalWordSetsIllAndNothingElse : Obligations.IllegalWordSetsIllAndNothingElse := by
  intro s hdriven
  refine ⟨fun hillegal => ?_, fun hrsv hop => ?_⟩
  · rw [step_eq_respond_unit hdriven, unit_of_illegal s.params hillegal]
    rfl
  · obtain ⟨i, hd⟩ := decode_ok_of_legal hrsv hop
    rw [step_of_decode_ok hdriven hd]
    exact exec_ill_eq_zero i s

/-- Settles O4: the four lines are assembled by evaluation, and their words are the encoded instructions. -/
theorem encodingExamplesOfTheSpec : Obligations.EncodingExamplesOfTheSpec :=
  ⟨by decide, by decide, by decide, by decide,
    decode_encode (.toHalf 0x3F800000#32 0), decode_encode (.toFloat 0x3C00#16 0 0),
    decode_encode (.cmp 0x0000#16 0x8000#16 0), decode_encode (.toHex 0x7BFF#16 0 0)⟩

/-- Settles O7: by the definition of the step on a driven word that decodes. -/
theorem stepRunsTheDecodedInstruction : Obligations.StepRunsTheDecodedInstruction :=
  fun _ _ => step_of_decode_ok

end Machine

end Sys2Proof
end

section
/-! PROOFS of the codec family (40_codec.md). TOHALF: the algorithm of R106 rounds in every binade to the magnitude
in whose cell the exact value lies, and a cell is what R101 and R102 ask. TOFLOAT: each branch keeps the exact value,
which TOHALF then rounds to itself. -/

namespace Sys2Proof.Machine

/-! ### The values of the magnitude fields (R22 of 10_state.md, R101 of 40_codec.md)

Up to 0x7c00, where `magValue` has 2^16, the value that follows MAX_VALUE's in R102. -/

theorem magValue_eq_units {k : ℕ} (hk : k ≤ 0x7c00) :
    magValue k = ((if k / 1024 = 0 then k % 1024 else (1024 + k % 1024) * 2 ^ (k / 1024 - 1) : ℕ) : ℚ) / 2 ^ 24 := by
  have hmod : k % 32768 = k := by omega
  simp only [magValue, val16_eq_scaled16, scaled16, sign16_pack16, exp16_pack16, man16_pack16, hmod]
  rfl

/-- The field `u * 1024 + keep` has the significand `keep`, implicit bit included, in units of 2^(u - 24). It may be
2048, a carry into the exponent (R107 of 40_codec.md). -/
theorem magValue_scale {u keep : ℕ} (hkeep : keep ≤ 2048) (hu : u = 0 ∨ 1024 ≤ keep)
    (hle : u * 1024 + keep ≤ 0x7c00) : magValue (u * 1024 + keep) = keep * 2 ^ u / 2 ^ 24 := by
  rw [magValue_eq_units hle]
  obtain hsub | ⟨h1024, hlt2048⟩ | rfl : keep < 1024 ∨ (1024 ≤ keep ∧ keep < 2048) ∨ keep = 2048 := by omega
  · obtain rfl : u = 0 := by omega
    have hexp : (0 * 1024 + keep) / 1024 = 0 := by omega
    have hman : (0 * 1024 + keep) % 1024 = keep := by omega
    rw [hexp, hman]
    simp
  · have hexp : (u * 1024 + keep) / 1024 = u + 1 := by omega
    have hman : 1024 + (u * 1024 + keep) % 1024 = keep := by omega
    rw [hexp, hman]
    simp
  · have hexp : (u * 1024 + 2048) / 1024 = u + 2 := by omega
    have hman : (u * 1024 + 2048) % 1024 = 0 := by omega
    rw [hexp, hman]
    norm_num [pow_succ]
    ring

theorem exists_scale (k : ℕ) : ∃ u keep, k = u * 1024 + keep ∧ keep < 2048 ∧ (u = 0 ∨ 1024 ≤ keep) :=
  ⟨k / 1024 - 1, k - (k / 1024 - 1) * 1024, by omega, by omega, by omega⟩

theorem magValue_lt_succ {k : ℕ} (hk : k < 0x7c00) : magValue k < magValue (k + 1) := by
  obtain ⟨u, keep, rfl, hkeep, hu⟩ := exists_scale k
  rw [magValue_scale hkeep.le hu (by omega), add_assoc, magValue_scale hkeep (by omega) (by omega)]
  push_cast
  gcongr
  linarith

/-- The magnitude fields are ordered by value. -/
theorem magValue_lt {j k : ℕ} (hjk : j < k) (hk : k ≤ 0x7c00) : magValue j < magValue k := by
  induction k, hjk using Nat.le_induction with
  | base => exact magValue_lt_succ hk
  | succ k _ ih => exact (ih (by omega)).trans (magValue_lt_succ hk)

theorem magValue_le {j k : ℕ} (hjk : j ≤ k) (hk : k ≤ 0x7c00) : magValue j ≤ magValue k := by
  obtain rfl | hlt := hjk.eq_or_lt
  · exact le_rfl
  · exact (magValue_lt hlt hk).le

theorem magValue_zero : magValue 0 = 0 := val16_positiveZero

theorem magValue_one : magValue 1 = 2 ^ (-24 : ℤ) := val16_minValue

theorem magValue_minNormal : magValue 0x400 = 2 ^ (-14 : ℤ) := val16_minNormal

theorem magValue_maxValue : magValue 0x7bff = 65504 := val16_maxValue

theorem magValue_infinity : magValue 0x7c00 = 65536 := val16_of_scaled16 (n := 65536 * 2 ^ 24) (by decide) (by norm_num)

theorem magValue_nonneg {k : ℕ} (hk : k ≤ 0x7c00) : 0 ≤ magValue k := magValue_zero ▸ magValue_le k.zero_le hk

/-! ### Rounding to the nearest magnitude, ties to even (R101, R102 of 40_codec.md) -/

/-- Of two numbers the greater is as near to `x` as the less when `x` is not below their middle. -/
theorem abs_sub_le_abs_sub_iff_of_lt {a b x : ℚ} (hab : a < b) : |b - x| ≤ |a - x| ↔ a + b ≤ 2 * x := by
  rw [← sq_le_sq]
  constructor <;> intro h <;> nlinarith

theorem abs_sub_le_abs_sub_iff_of_gt {a b x : ℚ} (hab : a < b) : |a - x| ≤ |b - x| ↔ 2 * x ≤ a + b := by
  rw [← sq_le_sq]
  constructor <;> intro h <;> nlinarith

theorem abs_sub_eq_abs_sub_iff {a b x : ℚ} (hab : a < b) : |a - x| = |b - x| ↔ a + b = 2 * x := by
  rw [le_antisymm_iff, abs_sub_le_abs_sub_iff_of_lt hab, abs_sub_le_abs_sub_iff_of_gt hab, le_antisymm_iff, and_comm]

/-- `x` lies from the middle below the magnitude field `k` to the middle above it, and in one of the two only when `k`
is even; 0x7c00 has no middle above it. -/
def InCell (x : ℚ) (k : ℕ) : Prop :=
  (∀ j, j + 1 = k → magValue j + magValue k ≤ 2 * x ∧ (magValue j + magValue k = 2 * x → k % 2 = 0)) ∧
  (k < 0x7c00 → 2 * x ≤ magValue k + magValue (k + 1) ∧ (magValue k + magValue (k + 1) = 2 * x → k % 2 = 0))

theorem inCell_of_isRne16_finite {x : ℚ} {k : ℕ} (hx : x < 65520) (hr : IsRne16 x k) : InCell x k := by
  obtain ⟨hk, hnear, heven⟩ := hr.1 hx
  refine ⟨fun j hj => ?_, fun hlt => ?_⟩
  · have hval : magValue j < magValue k := magValue_lt (by omega) (by omega)
    rw [← abs_sub_le_abs_sub_iff_of_lt hval, ← abs_sub_eq_abs_sub_iff hval]
    exact ⟨hnear j (by omega), heven j (by omega) (by omega)⟩
  · obtain hfin | rfl : k + 1 ≤ 0x7bff ∨ k = 0x7bff := by omega
    · have hval : magValue k < magValue (k + 1) := magValue_lt_succ hlt
      rw [← abs_sub_le_abs_sub_iff_of_gt hval, ← abs_sub_eq_abs_sub_iff hval, eq_comm]
      exact ⟨hnear _ hfin, heven _ hfin (by omega)⟩
    · rw [magValue_maxValue, magValue_infinity]
      exact ⟨by linarith, fun _ => by linarith⟩

theorem inCell_infinity {x : ℚ} (hx : 65520 ≤ x) : InCell x 0x7c00 := by
  refine ⟨fun j hj => ?_, fun h => absurd h (by decide)⟩
  obtain rfl : j = 0x7bff := by omega
  rw [magValue_maxValue, magValue_infinity]
  exact ⟨by linarith, fun _ => rfl⟩

/-- In the cell of `k` no finite magnitude is nearer than `k`'s, and another is as near only when `k` is even. -/
theorem nearest_of_inCell {x : ℚ} {j k : ℕ} (hk : k ≤ 0x7c00) (hc : InCell x k) (hj : j ≤ 0x7bff) :
    |magValue k - x| ≤ |magValue j - x| ∧ (j ≠ k → |magValue j - x| = |magValue k - x| → k % 2 = 0) := by
  obtain ⟨hbelow, habove⟩ := hc
  obtain hlt | rfl | hlt := lt_trichotomy j k
  · have hval : magValue j < magValue k := magValue_lt hlt hk
    obtain ⟨i, rfl⟩ : ∃ i, k = i + 1 := ⟨k - 1, by omega⟩
    obtain ⟨hmid, heven⟩ := hbelow i rfl
    have hle : magValue j ≤ magValue i := magValue_le (by omega) (by omega)
    rw [abs_sub_le_abs_sub_iff_of_lt hval, abs_sub_eq_abs_sub_iff hval]
    exact ⟨by linarith, fun _ h => heven (by linarith)⟩
  · exact ⟨le_rfl, fun h => absurd rfl h⟩
  · have hval : magValue k < magValue j := magValue_lt hlt (by omega)
    obtain ⟨hmid, heven⟩ := habove (by omega)
    have hle : magValue (k + 1) ≤ magValue j := magValue_le hlt (by omega)
    rw [abs_sub_le_abs_sub_iff_of_gt hval, eq_comm, abs_sub_eq_abs_sub_iff hval]
    exact ⟨by linarith, fun _ h => heven (by linarith)⟩

/-- The cells of the finite magnitudes are those below 65520: MAX_VALUE's is odd, so it ends there without 65520. -/
theorem le_maxValue_iff_of_inCell {x : ℚ} {k : ℕ} (hk : k ≤ 0x7c00) (hc : InCell x k) : k ≤ 0x7bff ↔ x < 65520 := by
  obtain ⟨hbelow, habove⟩ := hc
  refine ⟨fun hfin => ?_, fun hx => ?_⟩
  · obtain ⟨hmid, heven⟩ := habove (by omega)
    obtain hlt | rfl := hfin.lt_or_eq
    · have hle : magValue k ≤ 65504 := magValue_maxValue ▸ magValue_le hfin (by decide)
      have hle' : magValue (k + 1) ≤ 65504 := magValue_maxValue ▸ magValue_le hlt (by decide)
      linarith
    · rw [magValue_maxValue, magValue_infinity] at hmid heven
      exact lt_of_le_of_ne (by linarith) fun h => absurd (heven (by linarith)) (by decide)
  · by_contra hinf
    obtain rfl : k = 0x7c00 := by omega
    have hmid := (hbelow 0x7bff rfl).1
    rw [magValue_maxValue, magValue_infinity] at hmid
    linarith

theorem isRne16_of_inCell {x : ℚ} {k : ℕ} (hk : k ≤ 0x7c00) (hc : InCell x k) : IsRne16 x k := by
  have hfin := le_maxValue_iff_of_inCell hk hc
  refine ⟨fun hx => ⟨hfin.mpr hx, fun j hj => ?_, fun j hj => ?_⟩, fun hx => ?_⟩
  · exact (nearest_of_inCell hk hc hj).1
  · exact (nearest_of_inCell hk hc hj).2
  · have := mt hfin.mp (not_lt.mpr hx)
    omega

/-- The rounding of R101 and R102 by the middles between neighbouring magnitudes. -/
theorem isRne16_iff_inCell {x : ℚ} {k : ℕ} : IsRne16 x k ↔ k ≤ 0x7c00 ∧ InCell x k := by
  refine ⟨fun hr => ?_, fun ⟨hk, hc⟩ => isRne16_of_inCell hk hc⟩
  obtain hx | hx := lt_or_ge x 65520
  · exact ⟨(hr.1 hx).1.trans (by decide), inCell_of_isRne16_finite hx hr⟩
  · obtain rfl := hr.2 hx
    exact ⟨le_rfl, inCell_infinity hx⟩

/-- Up to the middle between two neighbouring magnitudes the lower one is the rounding, in the middle if it is even. -/
theorem isRne16_of_le_middle {x : ℚ} {b : ℕ} (hb : b < 0x7c00) (hlo : magValue b ≤ x)
    (hmid : 2 * x ≤ magValue b + magValue (b + 1)) (heven : magValue b + magValue (b + 1) = 2 * x → b % 2 = 0) :
    IsRne16 x b := by
  refine isRne16_of_inCell hb.le ⟨?_, fun _ => ⟨hmid, heven⟩⟩
  rintro j rfl
  have hval : magValue j < magValue (j + 1) := magValue_lt_succ (by omega)
  exact ⟨by linarith, fun h => by linarith⟩

/-- From the middle between two neighbouring magnitudes on the upper one is the rounding, in the middle if the lower one
is odd. -/
theorem isRne16_of_middle_le {x : ℚ} {b : ℕ} (hb : b < 0x7c00) (hhi : x < magValue (b + 1))
    (hmid : magValue b + magValue (b + 1) ≤ 2 * x) (hodd : magValue b + magValue (b + 1) = 2 * x → b % 2 = 1) :
    IsRne16 x (b + 1) := by
  refine isRne16_of_inCell hb ⟨fun j hj => ?_, fun hlt => ?_⟩
  · obtain rfl : j = b := by omega
    exact ⟨hmid, fun h => by have := hodd h; omega⟩
  · have hval : magValue (b + 1) < magValue (b + 1 + 1) := magValue_lt_succ hlt
    exact ⟨by linarith, fun h => by linarith⟩

/-- Rounding is monotone: were `l` below `k`, both numbers would lie in one middle, whose two neighbours are not both
even. -/
theorem isRne16_mono {x y : ℚ} {k l : ℕ} (hx : IsRne16 x k) (hy : IsRne16 y l) (hxy : x ≤ y) : k ≤ l := by
  rw [isRne16_iff_inCell] at hx hy
  obtain ⟨hk, hbelow, -⟩ := hx
  obtain ⟨hl, -, habove⟩ := hy
  by_contra hlk
  obtain ⟨j, rfl⟩ : ∃ j, k = j + 1 := ⟨k - 1, by omega⟩
  obtain ⟨hxmid, hxeven⟩ := hbelow j rfl
  obtain ⟨hymid, hyeven⟩ := habove (by omega)
  have hlj : magValue l ≤ magValue j := magValue_le (by omega) (by omega)
  have hlj' : magValue (l + 1) ≤ magValue (j + 1) := magValue_le (by omega) hk
  have hj := hxeven (by linarith)
  have hl := hyeven (by linarith)
  have hlt : magValue l < magValue j := magValue_lt (by omega) (by omega)
  linarith

theorem isRne16_unique {x : ℚ} {k l : ℕ} (hk : IsRne16 x k) (hl : IsRne16 x l) : k = l :=
  le_antisymm (isRne16_mono hk hl le_rfl) (isRne16_mono hl hk le_rfl)

/-- A magnitude is its own rounding. -/
theorem isRne16_magValue {k : ℕ} (hk : k < 0x7c00) : IsRne16 (magValue k) k := by
  have hval : magValue k < magValue (k + 1) := magValue_lt_succ hk
  exact isRne16_of_le_middle hk le_rfl (by linarith) (fun h => by linarith)

/-- The flush threshold of R103 (40_codec.md) is the middle between 0 and MIN_VALUE. -/
theorem isRne16_zero_iff {x : ℚ} (hx : 0 ≤ x) : IsRne16 x 0 ↔ x ≤ 2 ^ (-25 : ℤ) := by
  have hmiddle : magValue 0 + magValue (0 + 1) = 2 * 2 ^ (-25 : ℤ) := by
    rw [magValue_zero, magValue_one]
    norm_num
  constructor
  · intro hr
    obtain ⟨-, -, habove⟩ := isRne16_iff_inCell.mp hr
    have := (habove (by decide)).1
    linarith
  · intro hle
    exact isRne16_of_le_middle (by decide) (magValue_zero.trans_le hx) (by linarith) (fun _ => rfl)

/-! ### Values, signs and magnitudes -/

theorem abs_signUnit (s : Bool) : |signUnit s| = 1 := by cases s <;> simp [signUnit]

/-- The value of a half is its sign and the value of its magnitude. -/
theorem val16_eq_magValue (h : Half) : val16 h = signUnit (sign16 h) * magValue (mag16 h) := by
  have hmag := mag16_lt h
  have hexp : exp16 (pack16 false (mag16 h)) = exp16 h := by
    rw [exp16_pack16, Nat.mod_eq_of_lt hmag, exp16_eq_mag]
  have hman : man16 (pack16 false (mag16 h)) = man16 h := by
    rw [man16_pack16, man16_eq_mag]
  have hval : magValue (mag16 h) = _ := val16_of_fields (sign16_pack16 false _) hexp hman
  rw [hval]
  simp only [val16, signUnit, Bool.false_eq_true, if_false, one_mul]

theorem val16_of_sign_false {x : Half} (hs : sign16 x = false) : val16 x = magValue (mag16 x) := by
  simp [val16_eq_magValue, hs, signUnit]

theorem val16_of_sign_true {x : Half} (hs : sign16 x = true) : val16 x = -magValue (mag16 x) := by
  simp [val16_eq_magValue, hs, signUnit]

theorem abs_val16 {h : Half} (hmag : mag16 h ≤ 0x7c00) : |val16 h| = magValue (mag16 h) := by
  rw [val16_eq_magValue, abs_mul, abs_signUnit, one_mul, abs_of_nonneg (magValue_nonneg hmag)]

theorem exp16_eq_31_iff (h : Half) : exp16 h = 31 ↔ 0x7c00 ≤ mag16 h := by
  have hmag := mag16_lt h
  rw [exp16_eq_mag]
  omega

theorem isNan16_eq_false_iff (h : Half) : isNan16 h = false ↔ mag16 h ≤ 0x7c00 := by
  have hman := man16_lt h
  have hexp := exp16_lt h
  simp only [isNan16, mag16_eq_fields, Bool.and_eq_false_iff, decide_eq_false_iff_not]
  omega

theorem abs_val32 (f : Single) :
    |val32 f| = if exp32 f = 0 then (man32 f : ℚ) / 2 ^ 23 * 2 ^ (-126 : ℤ)
      else (1 + (man32 f : ℚ) / 2 ^ 23) * 2 ^ ((exp32 f : ℤ) - 127) := by
  rw [val32, abs_mul, abs_signUnit, one_mul, abs_of_nonneg (by positivity)]

theorem val32_eq_signUnit_mul_abs (f : Single) : val32 f = signUnit (sign32 f) * |val32 f| := by
  rw [abs_val32]
  rfl

theorem val32_of_sign_false {f : Single} (hs : sign32 f = false) : val32 f = |val32 f| := by
  simpa [hs, signUnit] using val32_eq_signUnit_mul_abs f

theorem val32_of_sign_true {f : Single} (hs : sign32 f = true) : val32 f = -|val32 f| := by
  simpa [hs, signUnit] using val32_eq_signUnit_mul_abs f

/-- The upper end of the binade of a binary32 exponent, and of the subnormals. -/
theorem abs_val32_lt (f : Single) : |val32 f| < 2 ^ ((exp32 f : ℤ) - 126) := by
  have hman : (man32 f : ℚ) / 2 ^ 23 < 1 := (div_lt_one (by positivity)).mpr (by exact_mod_cast man32_lt f)
  rw [abs_val32]
  split
  next he =>
    rw [he]
    exact mul_lt_of_lt_one_left (by positivity) hman
  next =>
    rw [show (exp32 f : ℤ) - 126 = 1 + (exp32 f - 127) by ring, zpow_add₀ two_ne_zero, zpow_one]
    gcongr
    linarith

/-- The lower end of the binade of a binary32 exponent. -/
theorem le_abs_val32 {f : Single} (he : exp32 f ≠ 0) : 2 ^ ((exp32 f : ℤ) - 127) ≤ |val32 f| := by
  rw [abs_val32, if_neg he]
  exact le_mul_of_one_le_left (by positivity) (le_add_of_nonneg_right (by positivity))

/-- The significand of a normalized binary32 pattern, shifted right by `d` bits, in units of 2^(u - 24). -/
theorem abs_val32_scale {f : Single} {d u : ℕ} (he : exp32 f ≠ 0) (hscale : exp32 f + d = u + 126) :
    |val32 f| = (man32 f + 0x800000 : ℕ) / 2 ^ d * 2 ^ u / 2 ^ 24 := by
  have hexp : (exp32 f : ℤ) - 127 = u - d - 1 := by omega
  rw [abs_val32, if_neg he, hexp, zpow_sub₀ (by norm_num), zpow_sub₀ (by norm_num)]
  push_cast
  norm_num
  ring

/-! ### The branches of TOHALF (R106 of 40_codec.md) -/

/-- `n` shifted right by `d` bits and rounded to nearest, ties to even. -/
def roundedShift (n d : ℕ) : ℕ :=
  n / 2 ^ d + if roundsUp (n / 2 ^ d) (n % 2 ^ d) (2 ^ (d - 1)) then 1 else 0

theorem toHalf_of_nan (p : Params) {f : Single} (he : exp32 f = 255) (hm : man32 f ≠ 0) : toHalf p f = p.qnan16 := by
  simp [toHalf, he, hm]

theorem toHalf_of_infinity (p : Params) {f : Single} (he : exp32 f = 255) (hm : man32 f = 0) :
    toHalf p f = pack16 (sign32 f) 0x7c00 := by
  simp [toHalf, he, hm]

theorem toHalf_of_overflow (p : Params) {f : Single} (hlo : 143 ≤ exp32 f) (hhi : exp32 f ≤ 254) :
    toHalf p f = pack16 (sign32 f) 0x7c00 := by
  have h255 : exp32 f ≠ 255 := by omega
  have h0 : exp32 f ≠ 0 := by omega
  have h31 : (exp32 f : ℤ) - 127 + 15 ≥ 31 := by omega
  simp only [toHalf, h255, h0, h31, if_true, if_false]

theorem toHalf_of_normal (p : Params) {f : Single} (hlo : 113 ≤ exp32 f) (hhi : exp32 f ≤ 142) :
    toHalf p f = pack16 (sign32 f) ((exp32 f - 113) * 1024 + roundedShift (man32 f + 0x800000) 13) := by
  have h255 : exp32 f ≠ 255 := by omega
  have h0 : exp32 f ≠ 0 := by omega
  have h31 : ¬ (exp32 f : ℤ) - 127 + 15 ≥ 31 := by omega
  have h1 : (exp32 f : ℤ) - 127 + 15 ≥ 1 := by omega
  have hexp : ((exp32 f : ℤ) - 127 + 15 - 1).toNat = exp32 f - 113 := by omega
  simp only [toHalf, h255, h0, h31, h1, hexp, if_true, if_false, roundedShift, ← add_assoc]
  rfl

theorem toHalf_of_subnormal (p : Params) {f : Single} (hlo : 102 ≤ exp32 f) (hhi : exp32 f ≤ 112) :
    toHalf p f = pack16 (sign32 f) (roundedShift (man32 f + 0x800000) (126 - exp32 f)) := by
  have h255 : exp32 f ≠ 255 := by omega
  have h0 : exp32 f ≠ 0 := by omega
  have h31 : ¬ (exp32 f : ℤ) - 127 + 15 ≥ 31 := by omega
  have h1 : ¬ (exp32 f : ℤ) - 127 + 15 ≥ 1 := by omega
  have hshift : (14 - ((exp32 f : ℤ) - 127 + 15)).toNat = 126 - exp32 f := by omega
  have h25 : ¬ 126 - exp32 f ≥ 25 := by omega
  simp only [toHalf, h255, h0, h31, h1, hshift, h25, if_false, roundedShift]

/-- Binary32 zeros and subnormals among them (R105 of 40_codec.md). -/
theorem toHalf_of_tiny (p : Params) {f : Single} (hhi : exp32 f ≤ 101) : toHalf p f = pack16 (sign32 f) 0 := by
  have h255 : exp32 f ≠ 255 := by omega
  have h31 : ¬ (exp32 f : ℤ) - 127 + 15 ≥ 31 := by omega
  have h1 : ¬ (exp32 f : ℤ) - 127 + 15 ≥ 1 := by omega
  have h25 : (14 - ((exp32 f : ℤ) - 127 + 15)).toNat ≥ 25 := by omega
  simp only [toHalf, h255, h31, h1, h25, if_true, if_false, ite_self]

/-! ### TOHALF is the exact rounding -/

/-- A shift drops at most half a unit, or at least half a unit and adds one; with exactly half a unit dropped, the
result is even. -/
theorem roundedShift_cases (n c : ℕ) :
    (n % 2 ^ (c + 1) ≤ 2 ^ c ∧ (n % 2 ^ (c + 1) = 2 ^ c → n / 2 ^ (c + 1) % 2 = 0) ∧
      roundedShift n (c + 1) = n / 2 ^ (c + 1)) ∨
    (2 ^ c ≤ n % 2 ^ (c + 1) ∧ (n % 2 ^ (c + 1) = 2 ^ c → n / 2 ^ (c + 1) % 2 = 1) ∧
      roundedShift n (c + 1) = n / 2 ^ (c + 1) + 1) := by
  simp only [roundedShift, roundsUp, Nat.add_sub_cancel, Bool.or_eq_true, Bool.and_eq_true, decide_eq_true_eq]
  split <;> omega

/-- Rounding a remainder of `rem` units `w` above the magnitude `b`, where the next magnitude is `2 * half` units above
`b`. -/
theorem isRne16_of_remainder {b rem half k : ℕ} {w : ℚ} (hb : b < 0x7c00) (hw : 0 < w) (hrem : rem < 2 * half)
    (hgap : magValue (b + 1) = magValue b + 2 * half * w)
    (hround : (rem ≤ half ∧ (rem = half → b % 2 = 0) ∧ k = b) ∨
      (half ≤ rem ∧ (rem = half → b % 2 = 1) ∧ k = b + 1)) :
    IsRne16 (magValue b + rem * w) k := by
  have hrem' : (rem : ℚ) < 2 * half := by exact_mod_cast hrem
  have htie (h : magValue b + magValue (b + 1) = 2 * (magValue b + rem * w)) : rem = half := by
    exact_mod_cast mul_right_cancel₀ hw.ne' (by linarith : (rem : ℚ) * w = half * w)
  obtain ⟨hle, heven, rfl⟩ | ⟨hle, hodd, rfl⟩ := hround
  · have hle' : (rem : ℚ) ≤ half := by exact_mod_cast hle
    exact isRne16_of_le_middle hb (by nlinarith) (by nlinarith) fun h => heven (htie h)
  · have hle' : (half : ℚ) ≤ rem := by exact_mod_cast hle
    exact isRne16_of_middle_le hb (by nlinarith) (by nlinarith) fun h => hodd (htie h)

/-- `n / 2^d` in units of 2^(u - 24) rounds to the field of the shifted `n`. -/
theorem isRne16_roundedShift {n d u : ℕ} (hd : 0 < d) (hlt : n / 2 ^ d < 2048) (hu : u = 0 ∨ 1024 ≤ n / 2 ^ d)
    (hu29 : u ≤ 29) : IsRne16 ((n : ℚ) / 2 ^ d * 2 ^ u / 2 ^ 24) (u * 1024 + roundedShift n d) := by
  obtain ⟨c, rfl⟩ : ∃ c, d = c + 1 := ⟨d - 1, by omega⟩
  have hdm := Nat.div_add_mod n (2 ^ (c + 1))
  have hrem := Nat.mod_lt n (Nat.two_pow_pos (c + 1))
  have hround := roundedShift_cases n c
  generalize n / 2 ^ (c + 1) = keep at *
  generalize n % 2 ^ (c + 1) = rem at *
  have hb : u * 1024 + keep < 0x7c00 := by omega
  have hlow := magValue_scale hlt.le hu hb.le
  have hhigh := magValue_scale (keep := keep + 1) hlt (hu.imp_right Nat.le_succ_of_le) (by omega)
  have hx : (n : ℚ) / 2 ^ (c + 1) * 2 ^ u / 2 ^ 24 =
      magValue (u * 1024 + keep) + rem * (2 ^ u / 2 ^ (c + 1) / 2 ^ 24) := by
    rw [← hdm, hlow]
    push_cast
    field_simp
  rw [hx]
  refine isRne16_of_remainder (half := 2 ^ c) hb (by positivity) (pow_succ' 2 c ▸ hrem) ?_ (by omega)
  rw [add_assoc, hhigh, hlow]
  push_cast
  field_simp
  ring

/-- The magnitude of a normalized binary32 pattern rounds to its shifted significand, 13 bits dropped in the binades of
the normalized halves and more below them. -/
theorem isRne16_abs_val32 {f : Single} {d u : ℕ} (he : exp32 f ≠ 0) (hscale : exp32 f + d = u + 126) (hd : 13 ≤ d)
    (hu : u = 0 ∨ d = 13) (hu29 : u ≤ 29) :
    IsRne16 |val32 f| (u * 1024 + roundedShift (man32 f + 0x800000) d) := by
  have hman := man32_lt f
  have hlt : (man32 f + 0x800000) / 2 ^ d < 2048 :=
    (Nat.div_le_div_left (Nat.pow_le_pow_right two_pos hd) (by positivity)).trans_lt (by omega)
  rw [abs_val32_scale he hscale]
  refine isRne16_roundedShift (by omega) hlt (hu.imp_right ?_) hu29
  rintro rfl
  omega

/-- TOHALF of a finite pattern has the pattern's sign and rounds its magnitude (R100 of 40_codec.md). -/
theorem toHalf_rounds (p : Params) {f : Single} (hf : exp32 f ≠ 255) :
    ∃ k, toHalf p f = pack16 (sign32 f) k ∧ IsRne16 |val32 f| k := by
  have hlt := exp32_lt f
  obtain htiny | ⟨hlo, hhi⟩ | ⟨hlo, hhi⟩ | ⟨hlo, hhi⟩ : exp32 f ≤ 101 ∨ (102 ≤ exp32 f ∧ exp32 f ≤ 112) ∨
      (113 ≤ exp32 f ∧ exp32 f ≤ 142) ∨ (143 ≤ exp32 f ∧ exp32 f ≤ 254) := by
    omega
  · have hle : |val32 f| ≤ 2 ^ (-25 : ℤ) :=
      (abs_val32_lt f).le.trans (zpow_le_zpow_right₀ one_le_two (by omega))
    exact ⟨0, toHalf_of_tiny p htiny, (isRne16_zero_iff (abs_nonneg _)).mpr hle⟩
  · have hr := isRne16_abs_val32 (f := f) (u := 0) (d := 126 - exp32 f) (by omega) (by omega) (by omega) (.inl rfl)
      (by omega)
    rw [zero_mul, zero_add] at hr
    exact ⟨_, toHalf_of_subnormal p hlo hhi, hr⟩
  · exact ⟨_, toHalf_of_normal p hlo hhi, isRne16_abs_val32 (by omega) (by omega) le_rfl (.inr rfl) (by omega)⟩
  · have hge : 65520 ≤ |val32 f| := calc
      (65520 : ℚ) ≤ 2 ^ (16 : ℤ) := by norm_num
      _ ≤ 2 ^ ((exp32 f : ℤ) - 127) := zpow_le_zpow_right₀ one_le_two (by omega)
      _ ≤ |val32 f| := le_abs_val32 (by omega)
    exact ⟨_, toHalf_of_overflow p hlo hhi, fun h => absurd hge (not_le.mpr h), fun _ => rfl⟩

theorem isRne16_le {x : ℚ} {k : ℕ} (h : IsRne16 x k) : k ≤ 0x7c00 := (isRne16_iff_inCell.mp h).1

theorem sign16_toHalf (p : Params) {f : Single} (hf : exp32 f ≠ 255) : sign16 (toHalf p f) = sign32 f := by
  obtain ⟨k, hk, -⟩ := toHalf_rounds p hf
  rw [hk, sign16_pack16]

theorem isRne16_mag16_toHalf (p : Params) {f : Single} (hf : exp32 f ≠ 255) :
    IsRne16 |val32 f| (mag16 (toHalf p f)) := by
  obtain ⟨k, hk, hr⟩ := toHalf_rounds p hf
  have hle := isRne16_le hr
  rwa [hk, mag16_pack16, Nat.mod_eq_of_lt (by omega)]

theorem toHalf_eq_of_isRne16 (p : Params) {f : Single} {k : ℕ} (hf : exp32 f ≠ 255) (hk : IsRne16 |val32 f| k) :
    toHalf p f = pack16 (sign32 f) k := by
  rw [isRne16_unique hk (isRne16_mag16_toHalf p hf), ← sign16_toHalf p hf, pack16_fields]

/-- Settles O37: the bit-level algorithm rounds in every binade to nearest, ties to even. -/
theorem toHalfRoundsToNearestEven : Obligations.ToHalfRoundsToNearestEven :=
  ⟨fun _ _ _ => ⟨rfl, rfl⟩, fun p _ => ⟨toHalf_of_nan p, toHalf_of_infinity p,
    fun hf => ⟨sign16_toHalf p hf, isRne16_mag16_toHalf p hf⟩⟩⟩

/-- Settles O38: RNE16 is 0x7c00 from 65520 on, and at most the magnitude of MAX_VALUE below. -/
theorem toHalfSaturatesAt65520 : Obligations.ToHalfSaturatesAt65520 := by
  intro p f hf
  have hr := isRne16_mag16_toHalf p hf
  refine ⟨fun hx => ?_, fun hx => ?_⟩
  · rw [← hr.2 hx, ← sign16_toHalf p hf, pack16_fields]
  · obtain ⟨hfin, -, -⟩ := hr.1 hx
    rw [abs_val16 (isRne16_le hr), ← magValue_maxValue, Ne, exp16_eq_31_iff]
    exact ⟨magValue_le hfin (by decide), by omega⟩

/-- Settles O39: 0 is the rounding up to 2^-25, not above, and rounding is monotone up to that of 2^-14. -/
theorem toHalfFlushesUpToTwoToMinus25 : Obligations.ToHalfFlushesUpToTwoToMinus25 := by
  intro p f hf
  have hr := isRne16_mag16_toHalf p hf
  refine ⟨fun hx => ?_, fun he => ⟨?_, ?_⟩, fun hlo hhi => ⟨?_, ?_, sign16_toHalf p hf, fun j hj => ?_⟩⟩
  · exact toHalf_eq_of_isRne16 p hf ((isRne16_zero_iff (abs_nonneg _)).mpr hx)
  · have hlt := abs_val32_lt f
    rwa [he] at hlt
  · exact toHalf_of_tiny p (by omega)
  · rw [Nat.one_le_iff_ne_zero]
    intro h0
    rw [h0, isRne16_zero_iff (abs_nonneg _)] at hr
    exact absurd hlo (not_lt.mpr hr)
  · have hnormal : IsRne16 (2 ^ (-14 : ℤ)) 0x400 := magValue_minNormal ▸ isRne16_magValue (by decide)
    exact isRne16_mono hr hnormal hhi.le
  · have hfin : |val32 f| < 65520 := hhi.trans (by norm_num)
    obtain ⟨-, hnear, -⟩ := hr.1 hfin
    rw [abs_val16 (isRne16_le hr)]
    exact hnear j (by omega)

/-- Settles O40: the algorithm evaluated, which reads no parameter for a finite pattern. -/
theorem roundingCarryMovesIntoTheExponent : Obligations.RoundingCarryMovesIntoTheExponent :=
  fun _ => ⟨rfl, rfl, rfl⟩

/-! ### TOHALF is monotone (R109 of 40_codec.md) -/

theorem nkey_of_sign_false {x : Half} (hs : sign16 x = false) : nkey x = mag16 x := by simp [nkey, hs]

theorem nkey_of_sign_true {x : Half} (hs : sign16 x = true) : nkey x = -mag16 x := by simp [nkey, hs]

/-- Halves that are no NaN have their values in the order of their numeric keys. -/
theorem val16_le_of_nkey_le {x y : Half} (hx : mag16 x ≤ 0x7c00) (hy : mag16 y ≤ 0x7c00) (h : nkey x ≤ nkey y) :
    val16 x ≤ val16 y := by
  have hx0 := magValue_nonneg hx
  have hy0 := magValue_nonneg hy
  cases hsx : sign16 x <;> cases hsy : sign16 y
  case false.false =>
    rw [nkey_of_sign_false hsx, nkey_of_sign_false hsy] at h
    rw [val16_of_sign_false hsx, val16_of_sign_false hsy]
    exact magValue_le (by omega) hy
  case false.true =>
    rw [nkey_of_sign_false hsx, nkey_of_sign_true hsy] at h
    have hxzero : mag16 x = 0 := by omega
    have hyzero : mag16 y = 0 := by omega
    rw [val16_of_sign_false hsx, val16_of_sign_true hsy, hxzero, hyzero, magValue_zero, neg_zero]
  case true.false =>
    rw [val16_of_sign_true hsx, val16_of_sign_false hsy]
    linarith
  case true.true =>
    rw [nkey_of_sign_true hsx, nkey_of_sign_true hsy] at h
    rw [val16_of_sign_true hsx, val16_of_sign_true hsy]
    exact neg_le_neg (magValue_le (by omega) hx)

theorem extVal16_of_finite {x : Half} (he : exp16 x ≠ 31) :
    extVal16 x = ((val16 x : WithTop ℚ) : WithBot (WithTop ℚ)) :=
  if_neg he

theorem abs_nkey (x : Half) : |nkey x| = mag16 x := by
  unfold nkey
  split <;> simp

theorem sign16_eq_decide_nkey_neg {x : Half} (h0 : mag16 x ≠ 0) : sign16 x = decide (nkey x < 0) := by
  cases hs : sign16 x with
  | false => simp [nkey_of_sign_false hs]
  | true => simp [nkey_of_sign_true hs]; omega

/-- Only the two zeros share a key. -/
theorem eq_of_nkey_eq {x y : Half} (h : nkey x = nkey y) (h0 : mag16 x ≠ 0) : x = y := by
  have hmag : mag16 x = mag16 y := by exact_mod_cast (abs_nkey x).symm.trans (h ▸ abs_nkey y)
  refine half_ext ?_ hmag
  rw [sign16_eq_decide_nkey_neg h0, sign16_eq_decide_nkey_neg (hmag ▸ h0), h]

theorem extVal16_le_of_nkey_le {x y : Half} (hx : mag16 x ≤ 0x7c00) (hy : mag16 y ≤ 0x7c00) (h : nkey x ≤ nkey y) :
    extVal16 x ≤ extVal16 y := by
  have hkx := abs_le.mp (abs_nkey x).le
  have hky := abs_le.mp (abs_nkey y).le
  by_cases hex : exp16 x = 31
  · have hmag := (exp16_eq_31_iff x).mp hex
    cases hs : sign16 x with
    | true =>
      rw [extVal16_of_exp16_eq_31 hex, hs, if_pos rfl]
      exact bot_le
    | false =>
      have hkey := nkey_of_sign_false hs
      rw [eq_of_nkey_eq (x := x) (y := y) (by omega) (by omega)]
  by_cases hey : exp16 y = 31
  · have hmag := (exp16_eq_31_iff y).mp hey
    cases hs : sign16 y with
    | true =>
      have hkey := nkey_of_sign_true hs
      rw [eq_of_nkey_eq (x := y) (y := x) (by omega) (by omega)]
    | false =>
      rw [extVal16_of_exp16_eq_31 hey, hs]
      exact le_top
  rw [extVal16_of_finite hex, extVal16_of_finite hey, WithBot.coe_le_coe, WithTop.coe_le_coe]
  exact val16_le_of_nkey_le hx hy h

/-- TOHALF keeps the order of the values of finite patterns in the numeric keys. -/
theorem nkey_toHalf_le (p : Params) {f g : Single} (hf : exp32 f ≠ 255) (hg : exp32 g ≠ 255) (h : val32 f ≤ val32 g) :
    nkey (toHalf p f) ≤ nkey (toHalf p g) := by
  have hsf' := sign16_toHalf p hf
  have hsg' := sign16_toHalf p hg
  have hrf := isRne16_mag16_toHalf p hf
  have hrg := isRne16_mag16_toHalf p hg
  have hf0 := abs_nonneg (val32 f)
  have hg0 := abs_nonneg (val32 g)
  cases hsf : sign32 f <;> cases hsg : sign32 g
  case false.false =>
    rw [val32_of_sign_false hsf, val32_of_sign_false hsg] at h
    rw [nkey_of_sign_false (hsf'.trans hsf), nkey_of_sign_false (hsg'.trans hsg)]
    exact_mod_cast isRne16_mono hrf hrg h
  case false.true =>
    rw [val32_of_sign_false hsf, val32_of_sign_true hsg] at h
    have hzero : IsRne16 0 0 := (isRne16_zero_iff le_rfl).mpr (by positivity)
    have hk := isRne16_mono hrf hzero (by linarith)
    have hl := isRne16_mono hrg hzero (by linarith)
    rw [nkey_of_sign_false (hsf'.trans hsf), nkey_of_sign_true (hsg'.trans hsg)]
    omega
  case true.false =>
    rw [nkey_of_sign_true (hsf'.trans hsf), nkey_of_sign_false (hsg'.trans hsg)]
    omega
  case true.true =>
    rw [val32_of_sign_true hsf, val32_of_sign_true hsg] at h
    rw [nkey_of_sign_true (hsf'.trans hsf), nkey_of_sign_true (hsg'.trans hsg)]
    have := isRne16_mono hrg hrf (neg_le_neg_iff.mp h)
    omega

theorem isNan32_eq_false_iff (f : Single) : isNan32 f = false ↔ exp32 f ≠ 255 ∨ man32 f = 0 := by
  simp only [isNan32, Bool.and_eq_false_iff, decide_eq_false_iff_not, not_not]

/-- Every answer of TOHALF to a pattern that is no NaN is no NaN. -/
theorem mag16_toHalf_le (p : Params) {f : Single} (hf : isNan32 f = false) : mag16 (toHalf p f) ≤ 0x7c00 := by
  by_cases he : exp32 f = 255
  · have hm := ((isNan32_eq_false_iff f).mp hf).resolve_left (not_not.mpr he)
    rw [toHalf_of_infinity p he hm, mag16_pack16]
  · exact isRne16_le (isRne16_mag16_toHalf p he)

theorem extVal32_of_finite {f : Single} (he : exp32 f ≠ 255) :
    extVal32 f = ((val32 f : WithTop ℚ) : WithBot (WithTop ℚ)) :=
  if_neg he

theorem extVal32_of_exp32_eq_255 {f : Single} (he : exp32 f = 255) :
    extVal32 f = if sign32 f then ⊥ else ((⊤ : WithTop ℚ) : WithBot (WithTop ℚ)) :=
  if_pos he

/-- Only an infinity has the value of an infinity. -/
theorem eq_of_extVal32_eq {f g : Single} (he : exp32 f = 255) (hf : isNan32 f = false) (hg : isNan32 g = false)
    (h : extVal32 f = extVal32 g) : f = g := by
  rw [isNan32_eq_false_iff] at hf hg
  rw [extVal32_of_exp32_eq_255 he] at h
  by_cases heg : exp32 g = 255
  · rw [extVal32_of_exp32_eq_255 heg] at h
    refine single_ext ?_ (he.trans heg.symm) (by omega)
    cases hsf : sign32 f <;> cases hsg : sign32 g <;> simp [hsf, hsg] at h ⊢
  · rw [extVal32_of_finite heg] at h
    cases hsf : sign32 f <;> simp [hsf] at h

theorem extVal16_toHalf_of_infinity (p : Params) {f : Single} (he : exp32 f = 255) (hf : isNan32 f = false) :
    extVal16 (toHalf p f) = extVal32 f := by
  have hm : man32 f = 0 := ((isNan32_eq_false_iff f).mp hf).resolve_left (not_not.mpr he)
  rw [toHalf_of_infinity p he hm, extVal16_of_exp16_eq_31 (by rw [exp16_pack16]), sign16_pack16,
    extVal32_of_exp32_eq_255 he]

/-- Settles O41: rounding is monotone on the magnitudes, and an infinity is kept. -/
theorem toHalfIsMonotone : Obligations.ToHalfIsMonotone := by
  intro p f g hf hg h
  by_cases hef : exp32 f = 255
  · cases hs : sign32 f with
    | true =>
      rw [extVal16_toHalf_of_infinity p hef hf, extVal32_of_exp32_eq_255 hef, hs, if_pos rfl]
      exact bot_le
    | false =>
      have htop : extVal32 f = ⊤ := by rw [extVal32_of_exp32_eq_255 hef, hs]; rfl
      rw [eq_of_extVal32_eq hef hf hg (le_antisymm h (htop ▸ le_top))]
  by_cases heg : exp32 g = 255
  · cases hs : sign32 g with
    | true =>
      have hbot : extVal32 g = ⊥ := by rw [extVal32_of_exp32_eq_255 heg, hs]; rfl
      rw [eq_of_extVal32_eq heg hg hf (le_antisymm (hbot ▸ bot_le) h)]
    | false =>
      rw [extVal16_toHalf_of_infinity p heg hg, extVal32_of_exp32_eq_255 heg, hs]
      exact le_top
  rw [extVal32_of_finite hef, extVal32_of_finite heg, WithBot.coe_le_coe, WithTop.coe_le_coe] at h
  exact extVal16_le_of_nkey_le (mag16_toHalf_le p hf) (mag16_toHalf_le p hg) (nkey_toHalf_le p hef heg h)

/-! ### The branches of TOFLOAT (R110 of 40_codec.md) -/

theorem toFloat_of_nan (p : Params) {h : Half} (hn : isNan16 h = true) : toFloat p h = toFloatNanOf p h := by
  simp only [isNan16, Bool.and_eq_true, decide_eq_true_eq] at hn
  simp [toFloat, hn]

theorem toFloat_of_infinity (p : Params) {h : Half} (he : exp16 h = 31) (hm : man16 h = 0) :
    toFloat p h = pack32 (sign16 h) 255 0 := by
  simp [toFloat, he, hm]

theorem toFloat_of_zero (p : Params) {h : Half} (he : exp16 h = 0) (hm : man16 h = 0) :
    toFloat p h = pack32 (sign16 h) 0 0 := by
  simp [toFloat, he, hm]

theorem toFloat_of_subnormal (p : Params) {h : Half} {t : ℕ} (he : exp16 h = 0) (hlo : 2 ^ t ≤ man16 h)
    (hhi : man16 h < 2 ^ (t + 1)) :
    toFloat p h = pack32 (sign16 h) (t + 103) (man16 h * 2 ^ (23 - t) % 2 ^ 23) := by
  have hm : man16 h ≠ 0 := (Nat.two_pow_pos t).trans_le hlo |>.ne'
  have htop : Nat.log2 (man16 h) = t := (Nat.log2_eq_iff hm).mpr ⟨hlo, hhi⟩
  simp [toFloat, he, hm, htop]

theorem toFloat_of_normal (p : Params) {h : Half} (hlo : 1 ≤ exp16 h) (hhi : exp16 h ≤ 30) :
    toFloat p h = pack32 (sign16 h) (exp16 h + 112) (man16 h * 2 ^ 13) := by
  have h31 : exp16 h ≠ 31 := by omega
  have h0 : exp16 h ≠ 0 := by omega
  simp only [toFloat, h31, h0, if_false]

/-! ### TOFLOAT is exact (R111 to R113, R115 of 40_codec.md) -/

theorem category16_eq_normalized_iff (h : Half) : category16 h = .normalized ↔ 1 ≤ exp16 h ∧ exp16 h ≤ 30 := by
  unfold category16
  split_ifs <;> simp <;> omega

/-- Settles O43: the fields are those packed, none of which wraps, and the scale of the value is the same. -/
theorem toFloatOfNormalizedRebiasesTheExponent : Obligations.ToFloatOfNormalizedRebiasesTheExponent := by
  intro p h hcat
  obtain ⟨hlo, hhi⟩ := (category16_eq_normalized_iff h).mp hcat
  have hlt := man16_lt h
  have hs : sign32 (toFloat p h) = sign16 h := by rw [toFloat_of_normal p hlo hhi, sign32_pack32]
  have he : exp32 (toFloat p h) = exp16 h + 112 := by rw [toFloat_of_normal p hlo hhi, exp32_pack32]; omega
  have hm : man32 (toFloat p h) = man16 h * 2 ^ 13 := by rw [toFloat_of_normal p hlo hhi, man32_pack32]; omega
  refine ⟨hs, he, hm, ?_⟩
  rw [val32_of_fields hs he hm, val16, if_neg (by omega), if_neg (by omega)]
  congr 2
  · push_cast
    ring
  · congr 1
    push_cast
    ring

/-- A mantissa with its highest 1 bit at `t`, shifted to bit 23, is the implicit 1 and the rest. -/
theorem shifted_mantissa_mod {m t : ℕ} (ht : t ≤ 23) (hlo : 2 ^ t ≤ m) (hhi : m < 2 ^ (t + 1)) :
    m * 2 ^ (23 - t) = 2 ^ 23 + m * 2 ^ (23 - t) % 2 ^ 23 := by
  have hle : 2 ^ 23 ≤ m * 2 ^ (23 - t) := by
    calc 2 ^ 23 = 2 ^ t * 2 ^ (23 - t) := by rw [← pow_add, Nat.add_sub_cancel' ht]
      _ ≤ m * 2 ^ (23 - t) := Nat.mul_le_mul_right _ hlo
  have hlt : m * 2 ^ (23 - t) < 2 ^ 24 := by
    calc m * 2 ^ (23 - t) < 2 ^ (t + 1) * 2 ^ (23 - t) := Nat.mul_lt_mul_of_pos_right hhi (Nat.two_pow_pos _)
      _ = 2 ^ 24 := by rw [← pow_add]; congr 1; omega
  omega

/-- Settles O44: the shift moves the highest 1 bit of the mantissa to the implicit bit, and the exponent makes up for
it. -/
theorem toFloatOfSubnormalNormalizesTheMantissa : Obligations.ToFloatOfSubnormalNormalizesTheMantissa := by
  intro p h t hexp hlo hhi
  have hlt := man16_lt h
  have ht : t < 10 := (Nat.pow_lt_pow_iff_right one_lt_two).mp (hlo.trans_lt hlt)
  have hf := toFloat_of_subnormal p hexp hlo hhi
  have hs : sign32 (toFloat p h) = sign16 h := by rw [hf, sign32_pack32]
  have he : exp32 (toFloat p h) = t + 103 := by rw [hf, exp32_pack32]; omega
  have hm : man32 (toFloat p h) = man16 h * 2 ^ (23 - t) % 2 ^ 23 := by rw [hf, man32_pack32]; omega
  have hval : val16 h = signUnit (sign16 h) * (man16 h * 2 ^ (-24 : ℤ)) := by
    rw [val16, if_pos hexp]
    norm_num
    left
    ring
  refine ⟨hs, he, by omega, by omega, hm, hval, ?_⟩
  have hsig : (man16 h : ℚ) * 2 ^ (23 - t) = 2 ^ 23 + (man16 h * 2 ^ (23 - t) % 2 ^ 23 : ℕ) := by
    exact_mod_cast shifted_mantissa_mod (by omega) hlo hhi
  rw [val32_of_fields hs he hm, hval, if_neg (by omega)]
  congr 1
  calc (1 + (man16 h * 2 ^ (23 - t) % 2 ^ 23 : ℕ) / 2 ^ 23 : ℚ) * 2 ^ (((t + 103 : ℕ) : ℤ) - 127)
      = man16 h * (2 ^ (23 - t) * 2 ^ (((t + 103 : ℕ) : ℤ) - 127) / 2 ^ 23) := by
        rw [one_add_div (by norm_num), ← hsig]
        ring
    _ = man16 h * 2 ^ (-24 : ℤ) := by
        rw [← zpow_natCast, ← zpow_natCast, ← zpow_add₀ two_ne_zero, ← zpow_sub₀ two_ne_zero]
        congr 2
        omega

/-- A finite half is widened to a finite pattern with its sign and value. -/
theorem toFloat_of_finite (p : Params) {h : Half} (hfin : exp16 h ≠ 31) :
    exp32 (toFloat p h) ≠ 255 ∧ val32 (toFloat p h) = val16 h ∧ sign32 (toFloat p h) = sign16 h := by
  have hlt := exp16_lt h
  obtain ⟨he, hm⟩ | ⟨he, hm⟩ | hnormal : (exp16 h = 0 ∧ man16 h = 0) ∨ (exp16 h = 0 ∧ man16 h ≠ 0) ∨
      (1 ≤ exp16 h ∧ exp16 h ≤ 30) := by omega
  · have hs32 : sign32 (toFloat p h) = sign16 h := by rw [toFloat_of_zero p he hm, sign32_pack32]
    have he32 : exp32 (toFloat p h) = 0 := by rw [toFloat_of_zero p he hm, exp32_pack32]
    have hm32 : man32 (toFloat p h) = 0 := by rw [toFloat_of_zero p he hm, man32_pack32]
    refine ⟨by omega, ?_, hs32⟩
    rw [val32_of_fields hs32 he32 hm32, val16_of_fields rfl he hm]
    simp
  · obtain ⟨hs32, he32, -, hle, -, -, hval⟩ := toFloatOfSubnormalNormalizesTheMantissa p h _ he
      (Nat.log2_self_le hm) Nat.lt_log2_self
    exact ⟨by omega, hval, hs32⟩
  · obtain ⟨hs32, he32, -, hval⟩ := toFloatOfNormalizedRebiasesTheExponent p h
      ((category16_eq_normalized_iff h).mpr hnormal)
    exact ⟨by omega, hval, hs32⟩

/-- TOHALF undoes TOFLOAT: the value of a half is its own rounding (R109 of 40_codec.md). -/
theorem toHalf_toFloat (p q : Params) {h : Half} (hn : isNan16 h = false) : toHalf q (toFloat p h) = h := by
  have hmag := (isNan16_eq_false_iff h).mp hn
  by_cases he : exp16 h = 31
  · have hinf := (exp16_eq_31_iff h).mp he
    have hmag' : mag16 h = 0x7c00 := by omega
    have hm : man16 h = 0 := by rw [man16_eq_mag, hmag']
    rw [toFloat_of_infinity p he hm, toHalf_of_infinity q (exp32_pack32 ..) (man32_pack32 ..), sign32_pack32, ← hmag',
      pack16_fields]
  · obtain ⟨hfin, hval, hs⟩ := toFloat_of_finite p he
    have hlt : mag16 h < 0x7c00 := not_le.mp ((exp16_eq_31_iff h).not.mp he)
    have hr : IsRne16 |val32 (toFloat p h)| (mag16 h) := by
      rw [hval, abs_val16 hmag]
      exact isRne16_magValue hlt
    rw [toHalf_eq_of_isRne16 q hfin hr, hs, pack16_fields]

/-- Settles O42: the answer of TOFLOAT is the widened half, which TOHALF narrows to the half. -/
theorem toHalfOfToFloatGivesTheHalfBack : Obligations.ToHalfOfToFloatGivesTheHalfBack := by
  intro h ignHi ignB s hn
  refine ⟨toFloat s.params h, rfl, fun t ignB' => ?_⟩
  have hexec : exec (.toHalf (toFloat s.params h) ignB') t =
      .next (t.respond (deliverHalf (toHalf t.params (toFloat s.params h)))) := rfl
  rw [hexec, toHalf_toFloat _ _ hn]
  rfl

/-- Settles O46: each branch is exact, and TOHALF is an inverse off the NaNs. -/
theorem toFloatIsExactAndInjective : Obligations.ToFloatIsExactAndInjective := by
  refine ⟨fun _ _ _ _ => ⟨rfl, rfl⟩, fun p => ⟨fun h => toFloat_of_finite p, rfl, rfl, rfl, rfl, ?_⟩⟩
  intro h h' hn hn' heq
  rw [← toHalf_toFloat p p hn, heq, toHalf_toFloat p p hn']

/-! ### TOFLOAT of a NaN (R114 of 40_codec.md) -/

/-- Patterns are or'ed field by field. -/
theorem pack32_or_pack32 (s s' : Bool) (e e' m m' : ℕ) :
    pack32 s e m ||| pack32 s' e' m' = pack32 (s || s') (e ||| e') (m ||| m') := by
  simp only [pack32]
  rw [← BitVec.ofBool_or_ofBool, BitVec.ofNat_or, BitVec.ofNat_or, ← BitVec.or_append, ← BitVec.or_append]

theorem quietBit_eq_pack32 : 0x00400000#32 = pack32 false 0 0x400000 := by decide

/-- Setting the quiet bit of a pattern with exponent 255 gives a NaN, whatever its mantissa. -/
theorem isNan32_or_quietBit (s : Bool) {m : ℕ} (hm : m < 2 ^ 23) :
    isNan32 (pack32 s 255 m ||| 0x00400000#32) = true := by
  have hge : 0x400000 ≤ m ||| 0x400000 := Nat.right_le_or
  have hlt : m ||| 0x400000 < 2 ^ 23 := Nat.or_lt_two_pow hm (by decide)
  rw [quietBit_eq_pack32, pack32_or_pack32, isNan32, exp32_pack32, man32_pack32]
  simp
  omega

theorem isNan32_toFloatNanOf (p : Params) (h : Half) : isNan32 (toFloatNanOf p h) = true := by
  have hm := man16_lt h
  unfold toFloatNanOf
  split
  · exact isNan32_or_quietBit _ (by omega)
  · decide
  · split
    · assumption
    · decide

theorem shifted_sign_eq_pack32 (h : Half) : (h &&& 0x8000#16).setWidth 32 <<< 16 = pack32 (sign16 h) 0 0 := by
  apply BitVec.eq_of_toNat_eq
  have hsign : (h &&& 0x8000#16).toNat = (sign16 h).toNat * 32768 := Nat.and_two_pow h.toNat 15
  rw [toNat_pack32, BitVec.toNat_shiftLeft, BitVec.toNat_setWidth, hsign]
  cases sign16 h <;> rfl

theorem shifted_mantissa_eq_pack32 (h : Half) :
    (h &&& 0x03ff#16).setWidth 32 <<< 13 = pack32 false 0 (man16 h * 2 ^ 13) := by
  apply BitVec.eq_of_toNat_eq
  have hlt := man16_lt h
  have hman : (h &&& 0x03ff#16).toNat = man16 h := (Nat.and_two_pow_sub_one_eq_mod h.toNat 10).trans (man16_eq h).symm
  rw [toNat_pack32, BitVec.toNat_shiftLeft, BitVec.toNat_setWidth, hman, Nat.shiftLeft_eq]
  simp
  omega

/-- Settles O45: every setting gives a NaN, and the bits of R114 are or'ed from the fields. -/
theorem toFloatOfNanIsANan : Obligations.ToFloatOfNanIsANan := by
  refine ⟨rfl, fun p h hn => ?_⟩
  rw [toFloat_of_nan p hn]
  refine ⟨isNan32_toFloatNanOf p h, fun hq => ?_, fun hc => ?_⟩
  · have hinf : 0x7f800000#32 = pack32 false 255 0 := by decide
    rw [shifted_sign_eq_pack32, shifted_mantissa_eq_pack32, hinf, pack32_or_pack32, pack32_or_pack32]
    simp [toFloatNanOf, hq]
  · simp only [toFloatNanOf, hc]

end Sys2Proof.Machine
end

section
/-! PROOFS of the classifier family (41_classifier.md). Each category and each predicate is a range of exponents and
mantissas (R22 of 10_state.md), and so an interval of magnitudes, which both signs carry: the categories are counted,
and the answers of ISNAN, ISINF and ISNORM read, from the magnitudes. -/

namespace Sys2Proof.Machine

/-! ### The categories by their fields and by their magnitudes (R22, R23 of 10_state.md) -/

/-- The exponents `e` and mantissas `m` of a category (R22 of 10_state.md). -/
def Category.Fields (c : Category) (e m : ℕ) : Prop :=
  match c with
  | .zero => e = 0 ∧ m = 0
  | .subnormal => e = 0 ∧ m ≠ 0
  | .normalized => 1 ≤ e ∧ e ≤ 30
  | .infinity => e = 31 ∧ m = 0
  | .nan => e = 31 ∧ m ≠ 0

/-- The lowest magnitude of a category. -/
def Category.lowestMag : Category → ℕ
  | .zero => 0
  | .subnormal => 1
  | .normalized => 0x400
  | .infinity => 0x7c00
  | .nan => 0x7c01

/-- The magnitude after the highest one of a category. -/
def Category.endMag : Category → ℕ
  | .zero => 1
  | .subnormal => 0x400
  | .normalized => 0x7c00
  | .infinity => 0x7c01
  | .nan => 0x8000

/-- Every branch of `category16` meets the condition of its own category and of no other. -/
theorem category16_eq_iff_fields (h : Half) (c : Category) : category16 h = c ↔ c.Fields (exp16 h) (man16 h) := by
  have hexp := exp16_lt h
  unfold category16
  cases c <;> simp only [Category.Fields]
  all_goals split_ifs <;> simp <;> omega

/-- The magnitudes of a category are an interval. -/
theorem category16_eq_iff_mag (h : Half) (c : Category) :
    category16 h = c ↔ mag16 h ∈ Finset.Ico c.lowestMag c.endMag := by
  have hman := man16_lt h
  have hexp := exp16_lt h
  rw [category16_eq_iff_fields, mag16_eq_fields, Finset.mem_Ico]
  cases c <;> simp only [Category.Fields, Category.lowestMag, Category.endMag] <;> omega

/-! ### The predicates (R130 to R134 of 41_classifier.md) -/

theorem isNan16_iff_fields (h : Half) : isNan16 h = true ↔ exp16 h = 31 ∧ man16 h ≠ 0 := by simp [isNan16]

theorem isInf16_iff_fields (h : Half) : isInf16 h = true ↔ exp16 h = 31 ∧ man16 h = 0 := by simp [isInf16]

theorem isNorm16_iff_fields (h : Half) : isNorm16 h = true ↔ 1 ≤ exp16 h ∧ exp16 h ≤ 30 := by simp [isNorm16]

theorem isNan16_iff_category (h : Half) : isNan16 h = true ↔ category16 h = .nan :=
  (isNan16_iff_fields h).trans (category16_eq_iff_fields h .nan).symm

theorem isInf16_iff_category (h : Half) : isInf16 h = true ↔ category16 h = .infinity :=
  (isInf16_iff_fields h).trans (category16_eq_iff_fields h .infinity).symm

theorem isNorm16_iff_category (h : Half) : isNorm16 h = true ↔ category16 h = .normalized :=
  (isNorm16_iff_fields h).trans (category16_eq_iff_fields h .normalized).symm

theorem isNan16_iff_mag (h : Half) : isNan16 h = true ↔ mag16 h > 0x7c00 := by
  rw [← Bool.not_eq_false, isNan16_eq_false_iff, not_le]

theorem isInf16_iff_mag (h : Half) : isInf16 h = true ↔ mag16 h = 0x7c00 := by
  rw [isInf16_iff_category, category16_eq_iff_mag, Finset.mem_Ico]
  simp only [Category.lowestMag, Category.endMag]
  omega

theorem isNorm16_iff_mag (h : Half) : isNorm16 h = true ↔ 0x0400 ≤ mag16 h ∧ mag16 h ≤ 0x7bff := by
  rw [isNorm16_iff_category, category16_eq_iff_mag, Finset.mem_Ico]
  simp only [Category.lowestMag, Category.endMag]
  omega

/-- The magnitude of infinity stands under each sign in one pattern. -/
theorem mag16_eq_infinity_iff (h : Half) : mag16 h = 0x7c00 ↔ h = 0x7c00#16 ∨ h = 0xfc00#16 := by
  constructor
  · intro hmag
    cases hs : sign16 h with
    | false => exact .inl (half_ext hs hmag)
    | true => exact .inr (half_ext hs hmag)
  · rintro (rfl | rfl) <;> rfl

/-! ### The counts (R135 of 41_classifier.md) -/

/-- Each magnitude of an interval stands in two of the 65536 patterns, one for each sign. -/
theorem count_mag_mem_Ico (lo : ℕ) {hi : ℕ} (hhi : hi ≤ 32768) :
    Nat.count (fun n => n % 32768 ∈ Finset.Ico lo hi) 65536 = 2 * (hi - lo) := by
  have hpatterns : (Finset.range 65536).filter (fun n => n % 32768 ∈ Finset.Ico lo hi) =
      Finset.Ico lo hi ∪ Finset.Ico (lo + 32768) (hi + 32768) := by
    ext n
    simp only [Finset.mem_filter, Finset.mem_range, Finset.mem_union, Finset.mem_Ico]
    omega
  have hdisjoint : Disjoint (Finset.Ico lo hi) (Finset.Ico (lo + 32768) (hi + 32768)) := by
    rw [Finset.disjoint_left]
    simp only [Finset.mem_Ico]
    omega
  rw [Nat.count_eq_card_filter_range, hpatterns, Finset.card_union_of_disjoint hdisjoint, Nat.card_Ico, Nat.card_Ico]
  omega

theorem count_category16 (c : Category) :
    Nat.count (fun n => category16 (BitVec.ofNat 16 n) = c) 65536 = 2 * (c.endMag - c.lowestMag) := by
  have hmag (n : ℕ) : category16 (BitVec.ofNat 16 n) = c ↔ n % 32768 ∈ Finset.Ico c.lowestMag c.endMag := by
    rw [category16_eq_iff_mag, mag16_eq, BitVec.toNat_ofNat, Nat.mod_mod_of_dvd n (by decide)]
  have hend : c.endMag ≤ 32768 := by cases c <;> decide
  simp only [hmag, count_mag_mem_Ico c.lowestMag hend]

/-- Settles O19: the conditions are the branches of the category, and a category has two patterns for each of its
magnitudes. -/
theorem categoriesPartitionThePatterns : Obligations.CategoriesPartitionThePatterns := by
  refine ⟨fun h => ⟨category16_eq_iff_fields h .zero, category16_eq_iff_fields h .subnormal,
    category16_eq_iff_fields h .normalized, category16_eq_iff_fields h .infinity, category16_eq_iff_fields h .nan,
    isNan16_iff_category h, isInf16_iff_category h, isNorm16_iff_category h⟩, fun c => ?_⟩
  calc _ = 2 * (c.endMag - c.lowestMag) := count_category16 c
    _ = _ := by cases c <;> rfl

/-! ### The answers (R37 of 10_state.md) -/

/-- A Boolean result on the ports, by the condition it decides. -/
theorem respond_deliverBool (s : State) {b : Bool} {P : Prop} [Decidable P] (hb : b = true ↔ P) :
    s.respond (deliverBool b) = { s with out := { y := if P then 1 else 0, txt := 0, tlen := 0, ill := 0 } } := by
  rw [State.respond, deliverBool_eq]
  simp only [hb]

/-- Settles O21: ISNAN answers its predicate, which holds of the magnitudes above infinity's. -/
theorem isNanAnswersMagnitudesAboveInfinity : Obligations.IsNanAnswersMagnitudesAboveInfinity :=
  fun h _ _ s => ⟨rfl, congrArg Host.Outcome.next (respond_deliverBool s (isNan16_iff_mag h)),
    (isNan16_iff_mag h).symm.trans (isNan16_iff_fields h)⟩

/-- Settles O22: ISINF answers its predicate, which holds of infinity's magnitude under either sign. -/
theorem isInfAnswersTheTwoInfinities : Obligations.IsInfAnswersTheTwoInfinities := by
  intro h ignHi ignB s
  have hpatterns : isInf16 h = true ↔ h = 0x7c00#16 ∨ h = 0xfc00#16 :=
    (isInf16_iff_mag h).trans (mag16_eq_infinity_iff h)
  exact ⟨rfl, congrArg Host.Outcome.next (respond_deliverBool s hpatterns),
    hpatterns.symm.trans (isInf16_iff_fields h), (mag16_eq_infinity_iff h).symm⟩

/-- Settles O23: ISNORM answers its predicate, which holds of the magnitudes of the exponents 1 to 30. -/
theorem isNormAnswersExponentsOneToThirty : Obligations.IsNormAnswersExponentsOneToThirty :=
  fun h _ _ s => ⟨rfl, congrArg Host.Outcome.next (respond_deliverBool s (isNorm16_iff_mag h)),
    (isNorm16_iff_mag h).symm.trans (isNorm16_iff_fields h)⟩

end Sys2Proof.Machine
end

section
/-! PROOFS of the comparator family (42_comparator.md). Off the NaNs a half's two keys are read from its sign and its
magnitude: the numeric key orders the halves by value, and the total key splits the two zeros. The predicates compare
numeric keys, CMP is the sign of the difference of the total keys, and MIN and MAX choose by the total keys. -/

namespace Sys2Proof.Machine

/-! ### The two keys (R140, R141 of 42_comparator.md) -/

theorem tkey_of_nan {x : Half} (hx : isNan16 x = true) : tkey x = 0x8000 := if_pos hx

theorem tkey_of_sign_false {x : Half} (hx : isNan16 x = false) (hs : sign16 x = false) : tkey x = mag16 x := by
  simp [tkey, hx, hs]

theorem tkey_of_sign_true {x : Half} (hx : isNan16 x = false) (hs : sign16 x = true) : tkey x = -mag16 x - 1 := by
  simp [tkey, hx, hs]

/-- The two keys agree under the sign 0 and lie one apart under the sign 1. -/
theorem keys_of_not_nan {x : Half} (hx : isNan16 x = false) :
    (sign16 x = false ∧ nkey x = mag16 x ∧ tkey x = mag16 x) ∨
    (sign16 x = true ∧ nkey x = -mag16 x ∧ tkey x = -mag16 x - 1) := by
  cases hs : sign16 x with
  | false => exact .inl ⟨rfl, nkey_of_sign_false hs, tkey_of_sign_false hx hs⟩
  | true => exact .inr ⟨rfl, nkey_of_sign_true hs, tkey_of_sign_true hx hs⟩

theorem mag16_eq_zero_iff (x : Half) : mag16 x = 0 ↔ x = positiveZero ∨ x = negativeZero := by
  constructor
  · intro hmag
    cases hs : sign16 x with
    | false => exact .inl (half_ext hs hmag)
    | true => exact .inr (half_ext hs hmag)
  · rintro (rfl | rfl) <;> rfl

theorem nkey_eq_zero_iff (x : Half) : nkey x = 0 ↔ mag16 x = 0 := by
  rw [← abs_eq_zero, abs_nkey, Int.natCast_eq_zero]

theorem nkey_eq_iff (x y : Half) : nkey x = nkey y ↔ x = y ∨ mag16 x = 0 ∧ mag16 y = 0 := by
  constructor
  · intro h
    by_cases hx : mag16 x = 0
    · exact .inr ⟨hx, (nkey_eq_zero_iff y).mp (h ▸ (nkey_eq_zero_iff x).mpr hx)⟩
    · exact .inl (eq_of_nkey_eq h hx)
  · rintro (rfl | ⟨hx, hy⟩)
    · rfl
    · rw [(nkey_eq_zero_iff x).mpr hx, (nkey_eq_zero_iff y).mpr hy]

/-! ### The numeric key and the exact values (R140 of 42_comparator.md) -/

theorem magValue_strictMonoOn : StrictMonoOn magValue (Set.Iic 0x7c00) := fun _ _ _ hk hjk => magValue_lt hjk hk

theorem magValue_pos_iff {k : ℕ} (hk : k ≤ 0x7c00) : 0 < magValue k ↔ 0 < k := by
  rw [← magValue_zero]
  exact magValue_strictMonoOn.lt_iff_lt (Nat.zero_le _) hk

theorem val16_neg_iff {x : Half} (hx : mag16 x ≤ 0x7c00) : val16 x < 0 ↔ sign16 x = true ∧ 0 < mag16 x := by
  cases hs : sign16 x with
  | false => simp [val16_of_sign_false hs, magValue_nonneg hx]
  | true => simp [val16_of_sign_true hs, magValue_pos_iff hx]

theorem val16_pos_iff {x : Half} (hx : mag16 x ≤ 0x7c00) : 0 < val16 x ↔ sign16 x = false ∧ 0 < mag16 x := by
  cases hs : sign16 x with
  | false => simp [val16_of_sign_false hs, magValue_pos_iff hx]
  | true => simp [val16_of_sign_true hs, magValue_nonneg hx]

/-- Halves of one value have one magnitude, and one sign unless they are zeros. -/
theorem nkey_eq_of_val16_eq {x y : Half} (hx : mag16 x ≤ 0x7c00) (hy : mag16 y ≤ 0x7c00) (h : val16 x = val16 y) :
    nkey x = nkey y := by
  have hmag : mag16 x = mag16 y :=
    magValue_strictMonoOn.injOn hx hy (by rw [← abs_val16 hx, ← abs_val16 hy, h])
  rw [nkey_eq_iff]
  by_cases h0 : mag16 x = 0
  · exact .inr ⟨h0, hmag ▸ h0⟩
  · have hneg : sign16 x = true ↔ sign16 y = true := by
      have hvals := val16_neg_iff hx
      rw [h, val16_neg_iff hy, ← hmag] at hvals
      simpa [Nat.pos_of_ne_zero h0] using hvals.symm
    exact .inl (half_ext (Bool.eq_iff_iff.mpr hneg) hmag)

/-- Only an infinity has the value of an infinity. -/
theorem eq_of_extVal16_eq {x y : Half} (he : exp16 x = 31) (hx : mag16 x ≤ 0x7c00) (hy : mag16 y ≤ 0x7c00)
    (h : extVal16 x = extVal16 y) : x = y := by
  have hmagx := (exp16_eq_31_iff x).mp he
  rw [extVal16_of_exp16_eq_31 he] at h
  by_cases hey : exp16 y = 31
  · have hmagy := (exp16_eq_31_iff y).mp hey
    rw [extVal16_of_exp16_eq_31 hey] at h
    refine half_ext ?_ (by omega)
    cases hsx : sign16 x <;> cases hsy : sign16 y <;> simp [hsx, hsy] at h ⊢
  · rw [extVal16_of_finite hey] at h
    cases hsx : sign16 x <;> simp [hsx] at h

theorem nkey_eq_of_extVal16_eq {x y : Half} (hx : mag16 x ≤ 0x7c00) (hy : mag16 y ≤ 0x7c00)
    (h : extVal16 x = extVal16 y) : nkey x = nkey y := by
  by_cases hex : exp16 x = 31
  · rw [eq_of_extVal16_eq hex hx hy h]
  by_cases hey : exp16 y = 31
  · rw [eq_of_extVal16_eq hey hy hx h.symm]
  rw [extVal16_of_finite hex, extVal16_of_finite hey, WithBot.coe_inj, WithTop.coe_inj] at h
  exact nkey_eq_of_val16_eq hx hy h

section
variable {x y : Half} (hx : isNan16 x = false) (hy : isNan16 y = false)
include hx hy

theorem nkey_le_iff_extVal16_le : nkey x ≤ nkey y ↔ extVal16 x ≤ extVal16 y := by
  rw [isNan16_eq_false_iff] at hx hy
  constructor
  · exact extVal16_le_of_nkey_le hx hy
  · intro h
    by_contra hlt
    have hge : extVal16 y ≤ extVal16 x := extVal16_le_of_nkey_le hy hx (by omega)
    exact hlt (nkey_eq_of_extVal16_eq hx hy (le_antisymm h hge)).le

theorem nkey_lt_iff_extVal16_lt : nkey x < nkey y ↔ extVal16 x < extVal16 y := by
  rw [← not_le, ← not_le, nkey_le_iff_extVal16_le hy hx]

theorem nkey_eq_iff_extVal16_eq : nkey x = nkey y ↔ extVal16 x = extVal16 y := by
  rw [le_antisymm_iff, le_antisymm_iff, nkey_le_iff_extVal16_le hx hy, nkey_le_iff_extVal16_le hy hx]

end

/-- Settles O24: the values are strictly ordered as the magnitudes are, each sign apart, and the zeros alone share a
key. -/
theorem numericKeyOrdersByValue : Obligations.NumericKeyOrdersByValue := by
  intro x y hx hy
  refine ⟨rfl, nkey_lt_iff_extVal16_lt hx hy, nkey_eq_iff_extVal16_eq hx hy, fun hkey hne => ?_⟩
  obtain ⟨hmagx, hmagy⟩ := ((nkey_eq_iff x y).mp hkey).resolve_left hne
  obtain rfl | rfl := (mag16_eq_zero_iff x).mp hmagx <;> obtain rfl | rfl := (mag16_eq_zero_iff y).mp hmagy
  · exact absurd rfl hne
  · exact .inl ⟨rfl, rfl⟩
  · exact .inr ⟨rfl, rfl⟩
  · exact absurd rfl hne

/-! ### The total key (R141 of 42_comparator.md) -/

theorem tkey_le_infinity {x : Half} (hx : isNan16 x = false) : tkey x ≤ tkey positiveInfinity := by
  have hinf : tkey positiveInfinity = 0x7c00 := rfl
  have hmag := (isNan16_eq_false_iff x).mp hx
  obtain ⟨-, -, ht⟩ | ⟨-, -, ht⟩ := keys_of_not_nan hx <;> omega

theorem tkey_lt_of_not_nan {x : Half} (hx : isNan16 x = false) : tkey x < 0x8000 :=
  (tkey_le_infinity hx).trans_lt (by decide)

/-- Two patterns share a total key only when both are NaNs. -/
theorem tkey_eq_iff (x y : Half) : tkey x = tkey y ↔ isNan16 x = true ∧ isNan16 y = true ∨ x = y := by
  constructor
  · intro h
    cases hx : isNan16 x <;> cases hy : isNan16 y
    case false.false =>
      obtain ⟨hsx, -, htx⟩ | ⟨hsx, -, htx⟩ := keys_of_not_nan hx <;>
        obtain ⟨hsy, -, hty⟩ | ⟨hsy, -, hty⟩ := keys_of_not_nan hy
      · exact .inr (half_ext (hsx.trans hsy.symm) (by omega))
      · omega
      · omega
      · exact .inr (half_ext (hsx.trans hsy.symm) (by omega))
    case false.true => exact absurd (h.trans (tkey_of_nan hy)) (tkey_lt_of_not_nan hx).ne
    case true.false => exact absurd (h.symm.trans (tkey_of_nan hx)) (tkey_lt_of_not_nan hy).ne
    case true.true => exact .inl ⟨rfl, rfl⟩
  · rintro (⟨hx, hy⟩ | rfl)
    · rw [tkey_of_nan hx, tkey_of_nan hy]
    · rfl

theorem eq_of_tkey_eq {x y : Half} (hx : isNan16 x = false) (h : tkey x = tkey y) : x = y :=
  ((tkey_eq_iff x y).mp h).resolve_left fun ⟨hnan, _⟩ => by simp [hx] at hnan

/-- The total key tells apart what the numeric key does not only where both halves are zeros. -/
theorem tkey_lt_iff_nkey_lt {x y : Half} (hx : isNan16 x = false) (hy : isNan16 y = false)
    (h0 : ¬(mag16 x = 0 ∧ mag16 y = 0)) : tkey x < tkey y ↔ nkey x < nkey y := by
  obtain ⟨-, hnx, htx⟩ | ⟨-, hnx, htx⟩ := keys_of_not_nan hx <;>
    obtain ⟨-, hny, hty⟩ | ⟨-, hny, hty⟩ := keys_of_not_nan hy <;> omega

theorem mag16_lt_infinity_of_finite {x : Half} (he : exp16 x ≠ 31) : mag16 x < 0x7c00 :=
  not_le.mp (mt (exp16_eq_31_iff x).mpr he)

/-- Settles O25: the keys are read from sign and magnitude, and the sign of a finite value is that of its pattern. -/
theorem totalKeyRanksNanTopAndSplitsTheZeros : Obligations.TotalKeyRanksNanTopAndSplitsTheZeros := by
  refine ⟨fun x => ⟨tkey_of_nan, tkey_of_sign_false, tkey_of_sign_true⟩, rfl, rfl, rfl, rfl, fun x he hneg => ?_,
    fun x he hpos => ?_, fun x y hx hy hne => ?_⟩
  · have hmag := mag16_lt_infinity_of_finite he
    obtain ⟨hs, h0⟩ := (val16_neg_iff hmag.le).mp hneg
    rw [tkey_of_sign_true ((isNan16_eq_false_iff x).mpr hmag.le) hs]
    omega
  · have hmag := mag16_lt_infinity_of_finite he
    obtain ⟨hs, h0⟩ := (val16_pos_iff hmag.le).mp hpos
    rw [tkey_of_sign_false ((isNan16_eq_false_iff x).mpr hmag.le) hs]
    omega
  · exact tkey_lt_iff_nkey_lt hx hy fun h0 => hne ((nkey_eq_iff x y).mpr (.inr h0))

/-! ### CMP (R148, R149 of 42_comparator.md) -/

theorem cmpHalf_eq_sign (a b : Half) : cmpHalf a b = (tkey a - tkey b).sign := by
  unfold cmpHalf
  split_ifs with hlt hgt
  · exact (Int.sign_eq_neg_one_of_neg (by omega)).symm
  · exact (Int.sign_eq_one_of_pos (by omega)).symm
  · rw [show tkey a - tkey b = 0 by omega, Int.sign_zero]

theorem cmpHalf_eq_neg_one_iff (a b : Half) : cmpHalf a b = -1 ↔ tkey a < tkey b := by
  rw [cmpHalf_eq_sign, Int.sign_eq_neg_one_iff_neg, sub_neg]

theorem cmpHalf_eq_one_iff (a b : Half) : cmpHalf a b = 1 ↔ tkey b < tkey a := by
  rw [cmpHalf_eq_sign, Int.sign_eq_one_iff_pos, sub_pos]

theorem cmpHalf_eq_zero_iff (a b : Half) : cmpHalf a b = 0 ↔ tkey a = tkey b := by
  rw [cmpHalf_eq_sign, Int.sign_eq_zero_iff_zero, sub_eq_zero]

theorem cmpHalf_le_zero_iff (a b : Half) : cmpHalf a b ≤ 0 ↔ tkey a ≤ tkey b := by
  rw [cmpHalf_eq_sign, Int.sign_nonpos_iff, sub_nonpos]

theorem cmpHalf_swap (a b : Half) : cmpHalf a b = -cmpHalf b a := by
  rw [cmpHalf_eq_sign, cmpHalf_eq_sign, ← Int.sign_neg, neg_sub]

theorem cmpHalf_of_nan_of_not_nan {a b : Half} (ha : isNan16 a = true) (hb : isNan16 b = false) : cmpHalf a b = 1 := by
  rw [cmpHalf_eq_one_iff, tkey_of_nan ha]
  exact tkey_lt_of_not_nan hb

/-- The answer of CMP in two's complement (R37 of 10_state.md). -/
theorem ofInt_cmpHalf (a b : Half) :
    BitVec.ofInt 32 (cmpHalf a b) = if tkey a < tkey b then 0xFFFFFFFF#32 else if tkey a > tkey b then 1 else 0 := by
  unfold cmpHalf
  split_ifs <;> rfl

theorem respond_deliverInt_cmpHalf (s : State) (a b : Half) :
    s.respond (deliverInt (cmpHalf a b)) =
      { s with out := { y := if tkey a < tkey b then 0xFFFFFFFF#32 else if tkey a > tkey b then 1 else 0,
                        txt := 0, tlen := 0, ill := 0 } } := by
  rw [State.respond, deliverInt_eq, ofInt_cmpHalf]

/-- Settles O32: the three answers in two's complement; every NaN has the one key above all others. -/
theorem cmpAnswersTheTotalOrder : Obligations.CmpAnswersTheTotalOrder := by
  refine ⟨fun a b ignHi s => ⟨rfl, congrArg Host.Outcome.next (respond_deliverInt_cmpHalf s a b)⟩,
    fun a b => ⟨rfl, cmpHalf_of_nan_of_not_nan, fun ha hb => ?_, (cmpHalf_eq_zero_iff a a).mpr rfl⟩, rfl, rfl⟩
  rw [cmpHalf_eq_zero_iff, tkey_of_nan ha, tkey_of_nan hb]

/-! ### The predicates (R142 to R147 of 42_comparator.md) -/

theorem ordered_and_iff (a b : Half) (P : Prop) [Decidable P] :
    (ordered a b && decide P) = true ↔ isNan16 a = false ∧ isNan16 b = false ∧ P := by
  simp [ordered, and_assoc]

theorem ordered_of_not_nan {a b : Half} (ha : isNan16 a = false) (hb : isNan16 b = false) : ordered a b = true := by
  simp [ordered, ha, hb]

theorem ordered_of_nan {a b : Half} (h : isNan16 a = true ∨ isNan16 b = true) : ordered a b = false := by
  obtain h | h := h <;> simp [ordered, h]

theorem ordered_comm (a b : Half) : ordered a b = ordered b a := Bool.and_comm _ _

theorem eqHalf_iff (a b : Half) : eqHalf a b = true ↔ isNan16 a = false ∧ isNan16 b = false ∧ nkey a = nkey b :=
  ordered_and_iff a b _

theorem ltHalf_iff (a b : Half) : ltHalf a b = true ↔ isNan16 a = false ∧ isNan16 b = false ∧ nkey a < nkey b :=
  ordered_and_iff a b _

theorem leHalf_iff (a b : Half) : leHalf a b = true ↔ isNan16 a = false ∧ isNan16 b = false ∧ nkey a ≤ nkey b :=
  ordered_and_iff a b _

theorem gtHalf_iff (a b : Half) : gtHalf a b = true ↔ isNan16 a = false ∧ isNan16 b = false ∧ nkey a > nkey b :=
  ordered_and_iff a b _

theorem geHalf_iff (a b : Half) : geHalf a b = true ↔ isNan16 a = false ∧ isNan16 b = false ∧ nkey a ≥ nkey b :=
  ordered_and_iff a b _

theorem gtHalf_eq_ltHalf (a b : Half) : gtHalf a b = ltHalf b a := congrArg (· && _) (ordered_comm a b)

theorem geHalf_eq_leHalf (a b : Half) : geHalf a b = leHalf b a := congrArg (· && _) (ordered_comm a b)

theorem eqHalf_comm (a b : Half) : eqHalf a b = eqHalf b a := by
  rw [eqHalf, eqHalf, ordered_comm a b, decide_eq_decide.mpr eq_comm]

theorem leHalf_eq_ltHalf_or_eqHalf (a b : Half) : leHalf a b = (ltHalf a b || eqHalf a b) := by
  rw [leHalf, ltHalf, eqHalf, ← Bool.and_or_distrib_left, ← Bool.decide_or, decide_eq_decide.mpr le_iff_lt_or_eq]

/-- A condition on two operands that are no NaN may be replaced by an equivalent one. -/
theorem not_nan_and_congr {a b : Half} {P Q : Prop}
    (h : isNan16 a = false → isNan16 b = false → (P ↔ Q)) :
    (isNan16 a = false ∧ isNan16 b = false ∧ P) ↔ isNan16 a = false ∧ isNan16 b = false ∧ Q :=
  and_congr_right fun ha => and_congr_right fun hb => h ha hb

/-- The answer of a predicate on the ports (R37 of 10_state.md). -/
theorem next_deliverBool (s : State) (b : Bool) :
    (.next (s.respond (deliverBool b)) : Host.Outcome State Fault Refusal) =
      .next { s with out := { y := if b then 1 else 0, txt := 0, tlen := 0, ill := 0 } } :=
  congrArg Host.Outcome.next (respond_deliverBool s Iff.rfl)

/-- Settles O26: the zeros alone share a numeric key. -/
theorem eqAnswersEqualPatternsOrTwoZeros : Obligations.EqAnswersEqualPatternsOrTwoZeros := fun a b _ s =>
  ⟨rfl, next_deliverBool s _, eqHalf_iff a b,
    (eqHalf_iff a b).trans (not_nan_and_congr fun _ _ => nkey_eq_iff a b)⟩

/-- Settles O27: LT compares the numeric keys, which are ordered as the values. -/
theorem ltAnswersNumericallyLess : Obligations.LtAnswersNumericallyLess := fun a b _ s =>
  ⟨rfl, next_deliverBool s _, ltHalf_iff a b, (ltHalf_iff a b).trans (not_nan_and_congr nkey_lt_iff_extVal16_lt)⟩

/-- Settles O28: LE compares the numeric keys, which are ordered as the values. -/
theorem leAnswersNumericallyLessOrEqual : Obligations.LeAnswersNumericallyLessOrEqual := fun a b _ s =>
  ⟨rfl, next_deliverBool s _, leHalf_iff a b, (leHalf_iff a b).trans (not_nan_and_congr nkey_le_iff_extVal16_le)⟩

/-- Settles O29: GT compares the numeric keys, which are ordered as the values, and asks first for NaNs, which CMP
ranks by their key. -/
theorem gtAnswersNumericallyGreater : Obligations.GtAnswersNumericallyGreater := by
  intro a b ignHi s
  refine ⟨rfl, next_deliverBool s _, gtHalf_iff a b,
    (gtHalf_iff a b).trans (not_nan_and_congr fun ha hb => nkey_lt_iff_extVal16_lt hb ha), fun ha => ⟨?_, ?_⟩⟩
  · rw [gtHalf, ordered_of_nan (.inl ha), Bool.false_and]
  · exact cmpHalf_of_nan_of_not_nan ha rfl

/-- Settles O30: GE compares the numeric keys, which are ordered as the values. -/
theorem geAnswersNumericallyGreaterOrEqual : Obligations.GeAnswersNumericallyGreaterOrEqual := fun a b _ s =>
  ⟨rfl, next_deliverBool s _, geHalf_iff a b,
    (geHalf_iff a b).trans (not_nan_and_congr fun ha hb => nkey_le_iff_extVal16_le hb ha)⟩

/-- Off the NaNs LT, EQ and GT are the three cases of the order of the numeric keys. -/
theorem count_lt_eq_gt {a b : Half} (ha : isNan16 a = false) (hb : isNan16 b = false) :
    [ltHalf a b, eqHalf a b, gtHalf a b].count true = 1 := by
  simp only [ltHalf, eqHalf, gtHalf, ordered_of_not_nan ha hb, Bool.true_and]
  obtain hlt | heq | hgt := lt_trichotomy (nkey a) (nkey b)
  · simp [hlt, hlt.ne, hlt.le]
  · simp [heq]
  · simp [hgt, hgt.ne', hgt.le]

/-- Settles O31: the laws of the order of the numeric keys, under the one question for NaNs. -/
theorem predicateLaws : Obligations.PredicateLaws := by
  intro a b
  refine ⟨leHalf_eq_ltHalf_or_eqHalf a b, ?_, gtHalf_eq_ltHalf a b, geHalf_eq_leHalf a b, eqHalf_comm a b,
    count_lt_eq_gt, fun hnan => ?_⟩
  · rw [geHalf_eq_leHalf, gtHalf_eq_ltHalf, eqHalf_comm, leHalf_eq_ltHalf_or_eqHalf]
  · simp [eqHalf, ltHalf, leHalf, gtHalf, geHalf, ordered_of_nan hnan]

/-- Settles O33: the sign of a difference has the laws of the order of the total keys. -/
theorem cmpIsATotalOrder : Obligations.CmpIsATotalOrder := by
  intro a b c
  refine ⟨cmpHalf_swap a b, ?_, ?_, (cmpHalf_eq_zero_iff a b).trans (tkey_eq_iff a b), fun ha hb h0 => ⟨?_, ?_⟩⟩
  · simp only [cmpHalf_le_zero_iff]
    exact le_trans
  · simp only [cmpHalf_le_zero_iff]
    exact le_total _ _
  · rw [cmpHalf_eq_neg_one_iff, ltHalf_iff, tkey_lt_iff_nkey_lt ha hb h0]
    simp only [ha, hb, true_and]
  · rw [cmpHalf_eq_one_iff, gtHalf_iff, tkey_lt_iff_nkey_lt hb ha (mt And.symm h0)]
    simp only [ha, hb, true_and, gt_iff_lt]

/-! ### MIN and MAX (R150 to R153 of 42_comparator.md) -/

theorem minHalf_of_nan (p : Params) {a b : Half} (h : isNan16 a = true ∨ isNan16 b = true) :
    minHalf p a b = p.qnan16 :=
  if_pos (by simpa using h)

theorem maxHalf_of_nan (p : Params) {a b : Half} (h : isNan16 a = true ∨ isNan16 b = true) :
    maxHalf p a b = p.qnan16 :=
  if_pos (by simpa using h)

section
variable (p : Params) {a b : Half} (ha : isNan16 a = false) (hb : isNan16 b = false)
include ha hb

theorem minHalf_of_not_nan : minHalf p a b = if tkey a ≤ tkey b then a else b := by
  simp [minHalf, ha, hb]

theorem maxHalf_of_not_nan : maxHalf p a b = if tkey a ≥ tkey b then a else b := by
  simp [maxHalf, ha, hb]

/-- MIN gives the operand with the lower key wherever it stands: operands with equal keys are equal. -/
theorem minHalf_of_tkey_le (h : tkey a ≤ tkey b) : minHalf p a b = a ∧ minHalf p b a = a := by
  refine ⟨(minHalf_of_not_nan p ha hb).trans (if_pos h), ?_⟩
  rw [minHalf_of_not_nan p hb ha]
  split_ifs with hle
  · exact eq_of_tkey_eq hb (le_antisymm hle h)
  · rfl

/-- MAX gives the operand with the higher key wherever it stands: operands with equal keys are equal. -/
theorem maxHalf_of_tkey_le (h : tkey a ≤ tkey b) : maxHalf p a b = b ∧ maxHalf p b a = b := by
  refine ⟨?_, (maxHalf_of_not_nan p hb ha).trans (if_pos h)⟩
  rw [maxHalf_of_not_nan p ha hb]
  split_ifs with hle
  · exact eq_of_tkey_eq ha (le_antisymm h hle)
  · rfl

end

/-- A NaN among the operands, or one of two orders of their keys: what MIN and MAX tell apart. -/
theorem nan_or_tkey_le (a b : Half) :
    (isNan16 a = true ∨ isNan16 b = true) ∨
    isNan16 a = false ∧ isNan16 b = false ∧ (tkey a ≤ tkey b ∨ tkey b ≤ tkey a) := by
  cases ha : isNan16 a with
  | true => exact .inl (.inl rfl)
  | false =>
    cases hb : isNan16 b with
    | true => exact .inl (.inr rfl)
    | false => exact .inr ⟨rfl, rfl, le_total _ _⟩

theorem minHalf_comm (p : Params) (a b : Half) : minHalf p a b = minHalf p b a := by
  obtain hnan | ⟨ha, hb, hle | hle⟩ := nan_or_tkey_le a b
  · rw [minHalf_of_nan p hnan, minHalf_of_nan p hnan.symm]
  · obtain ⟨hab, hba⟩ := minHalf_of_tkey_le p ha hb hle
    rw [hab, hba]
  · obtain ⟨hba, hab⟩ := minHalf_of_tkey_le p hb ha hle
    rw [hab, hba]

theorem maxHalf_comm (p : Params) (a b : Half) : maxHalf p a b = maxHalf p b a := by
  obtain hnan | ⟨ha, hb, hle | hle⟩ := nan_or_tkey_le a b
  · rw [maxHalf_of_nan p hnan, maxHalf_of_nan p hnan.symm]
  · obtain ⟨hab, hba⟩ := maxHalf_of_tkey_le p ha hb hle
    rw [hab, hba]
  · obtain ⟨hba, hab⟩ := maxHalf_of_tkey_le p hb ha hle
    rw [hab, hba]

/-- Settles O34: the branches of MIN, and the total key is one to one off the NaNs. -/
theorem minAnswersTheLowerOperand : Obligations.MinAnswersTheLowerOperand :=
  ⟨fun _ _ _ _ => ⟨rfl, rfl⟩, fun p _ _ =>
    ⟨minHalf_of_nan p, fun ha hb => ⟨minHalf_of_not_nan p ha hb, eq_of_tkey_eq ha⟩, rfl, rfl⟩⟩

/-- Settles O35: the branches of MAX, and no key off the NaNs is above that of +infinity. -/
theorem maxAnswersTheHigherOperand : Obligations.MaxAnswersTheHigherOperand := by
  refine ⟨fun _ _ _ _ => ⟨rfl, rfl⟩, fun p a b =>
    ⟨maxHalf_of_nan p, maxHalf_of_not_nan p, fun ha => ?_, rfl, rfl⟩⟩
  obtain ⟨hmax, -⟩ := maxHalf_of_tkey_le p ha (rfl : isNan16 positiveInfinity = false) (tkey_le_infinity ha)
  exact hmax

/-- Settles O36: whichever operand has the lower key is MIN, and the other one is MAX. -/
theorem minAndMaxLaws : Obligations.MinAndMaxLaws := by
  intro p a b
  refine ⟨minHalf_comm p a b, maxHalf_comm p a b, fun ha hb => ?_⟩
  rw [cmpHalf_le_zero_iff]
  obtain hle | hle := le_total (tkey a) (tkey b)
  · obtain ⟨hmin, -⟩ := minHalf_of_tkey_le p ha hb hle
    obtain ⟨hmax, -⟩ := maxHalf_of_tkey_le p ha hb hle
    rw [hmin, hmax]
    exact ⟨.inl ⟨rfl, rfl⟩, hle⟩
  · obtain ⟨-, hmin⟩ := minHalf_of_tkey_le p hb ha hle
    obtain ⟨-, hmax⟩ := maxHalf_of_tkey_le p hb ha hle
    rw [hmin, hmax]
    exact ⟨.inr ⟨rfl, rfl⟩, hle⟩

end Sys2Proof.Machine
end

section
/-! PROOFS of the rounding family (43_rounding.md). A finite half is a sign and a magnitude in units of 2^-24. A
rounding keeps the sign and takes the integer part of the magnitude, or one more: the exact definitions choose between
the two on the signed value, the bit-level algorithm on the magnitude field, and their choices agree. So the result has
the chosen integer as its value, and the laws follow from those of ⌊ ⌋ and ⌈ ⌉. -/

namespace Sys2Proof.Machine

/-! ### A finite half in units of 2^-24 (R22 of 10_state.md) -/

/-- The sign `s` on the magnitude `k`. -/
def signed (s : Bool) (k : ℕ) : ℤ := if s then -(k : ℤ) else k

theorem signed_false (k : ℕ) : signed false k = k := rfl

theorem signed_true (k : ℕ) : signed true k = -(k : ℤ) := rfl

theorem signed_not (s : Bool) (k : ℕ) : signed (!s) k = -signed s k := by cases s <;> simp [signed]

theorem natAbs_signed (s : Bool) (k : ℕ) : (signed s k).natAbs = k := by cases s <;> simp [signed]

theorem cast_signed (s : Bool) (k : ℕ) : (signed s k : ℚ) = signUnit s * k := by
  cases s <;> simp [signed, signUnit]

/-- The value of the magnitude field `k` in units of 2^-24. -/
def magUnits (k : ℕ) : ℕ := if k / 1024 = 0 then k % 1024 else (1024 + k % 1024) * 2 ^ (k / 1024 - 1)

theorem scaled16_eq_signed (h : Half) : scaled16 h = signed (sign16 h) (magUnits (mag16 h)) := by
  rw [magUnits, ← exp16_eq_mag, ← man16_eq_mag]
  rfl

theorem magValue_eq_magUnits {k : ℕ} (hk : k ≤ 0x7c00) : magValue k = (magUnits k : ℚ) / 2 ^ 24 :=
  magValue_eq_units hk

/-- `magValue_scale` in units of 2^-24. -/
theorem magUnits_scale {u keep : ℕ} (hkeep : keep ≤ 2048) (hu : u = 0 ∨ 1024 ≤ keep)
    (hle : u * 1024 + keep ≤ 0x7c00) : magUnits (u * 1024 + keep) = keep * 2 ^ u := by
  have hval := magValue_scale hkeep hu hle
  rw [magValue_eq_magUnits hle, div_left_inj' (by positivity)] at hval
  exact_mod_cast hval

theorem magUnits_strictMonoOn : StrictMonoOn magUnits (Set.Iic 0x7c00) := by
  intro j hj k hk hjk
  have hlt := magValue_strictMonoOn hj hk hjk
  rw [magValue_eq_magUnits hj, magValue_eq_magUnits hk, div_lt_div_iff_of_pos_right (by positivity)] at hlt
  exact_mod_cast hlt

theorem magUnits_lt_iff {j k : ℕ} (hj : j ≤ 0x7c00) (hk : k ≤ 0x7c00) : magUnits j < magUnits k ↔ j < k :=
  magUnits_strictMonoOn.lt_iff_lt hj hk

theorem magUnits_eq_iff {j k : ℕ} (hj : j ≤ 0x7c00) (hk : k ≤ 0x7c00) : magUnits j = magUnits k ↔ j = k :=
  magUnits_strictMonoOn.eq_iff_eq hj hk

theorem magUnits_half : magUnits 0x3800 = 2 ^ 23 := by decide

theorem magUnits_one : magUnits 0x3c00 = 2 ^ 24 := by decide

theorem val16_pack16_of_magUnits {s : Bool} {k n : ℕ} (hk : k < 0x7c00) (hn : magUnits k = n * 2 ^ 24) :
    val16 (pack16 s k) = signed s n := by
  have hmod : k % 32768 = k := by omega
  rw [val16_eq_magValue, sign16_pack16, mag16_pack16, hmod, magValue_eq_magUnits hk.le, hn, cast_signed,
    Nat.cast_mul, Nat.cast_pow, Nat.cast_ofNat, mul_div_cancel_right₀ _ (by positivity)]

/-- A finite half is its sign and its value. -/
theorem eq_of_sign16_of_val16 {x y : Half} (hx : exp16 x ≠ 31) (hy : exp16 y ≠ 31) (hs : sign16 x = sign16 y)
    (hv : val16 x = val16 y) : x = y := by
  have hxmag := (mag16_lt_infinity_of_finite hx).le
  have hymag := (mag16_lt_infinity_of_finite hy).le
  exact half_ext hs (magValue_strictMonoOn.injOn hxmag hymag (by rw [← abs_val16 hxmag, ← abs_val16 hymag, hv]))

/-! ### The integer chosen, by sign and magnitude (R171 to R174 of 43_rounding.md) -/

/-- Whether a rounding adds one to the integer part `keep` of a magnitude, and so goes away from zero: `rem` is the
rest, counted in parts of which `half` make 1/2. -/
def roundsAway (o : RoundOp) (neg : Bool) (keep rem half : ℕ) : Bool :=
  match o with
  | .ceil => !neg && decide (rem ≠ 0)
  | .floor => neg && decide (rem ≠ 0)
  | .rint => roundsUp keep rem half
  | .trunc => false

/-- The choice depends on the parity of the integer part and on how the rest compares with 0 and with 1/2. -/
theorem roundsAway_congr (o : RoundOp) (neg : Bool) {keep keep' rem rem' half half' : ℕ}
    (hkeep : keep % 2 = keep' % 2) (hzero : rem = 0 ↔ rem' = 0) (hgt : rem > half ↔ rem' > half')
    (htie : rem = half ↔ rem' = half') : roundsAway o neg keep rem half = roundsAway o neg keep' rem' half' := by
  cases o <;> simp only [roundsAway, roundsUp, hkeep, hzero, hgt, htie, ne_eq]

/-- The magnitude of the integer a rounding chooses for the sign `neg` and the magnitude `v` in units of 2^-24. -/
def roundedMag (o : RoundOp) (neg : Bool) (v : ℕ) : ℕ :=
  v / 2 ^ 24 + if roundsAway o neg (v / 2 ^ 24) (v % 2 ^ 24) (2 ^ 23) then 1 else 0

theorem roundedMag_of_whole (o : RoundOp) (neg : Bool) (n : ℕ) : roundedMag o neg (n * 2 ^ 24) = n := by
  have hquot : n * 2 ^ 24 / 2 ^ 24 = n := Nat.mul_div_cancel n (by decide)
  have hrem : n * 2 ^ 24 % 2 ^ 24 = 0 := Nat.mul_mod_left n _
  rw [roundedMag, hquot, hrem]
  cases o <;> simp [roundsAway, roundsUp]

theorem roundedMag_floor_false (v : ℕ) : roundedMag .floor false v = v / 2 ^ 24 := rfl

theorem roundedMag_floor_true (v : ℕ) :
    roundedMag .floor true v = v / 2 ^ 24 + if v % 2 ^ 24 = 0 then 0 else 1 := by
  simp [roundedMag, roundsAway]

/-- CEIL chooses as FLOOR does under the other sign. -/
theorem roundedMag_ceil (neg : Bool) (v : ℕ) : roundedMag .ceil neg v = roundedMag .floor (!neg) v := rfl

theorem roundedMag_rint (neg : Bool) (v : ℕ) :
    roundedMag .rint neg v = v / 2 ^ 24 +
      if v % 2 ^ 24 > 2 ^ 23 ∨ v % 2 ^ 24 = 2 ^ 23 ∧ v / 2 ^ 24 % 2 = 1 then 1 else 0 := by
  simp [roundedMag, roundsAway, roundsUp]

theorem roundedMag_trunc_false (v : ℕ) : roundedMag .trunc false v = roundedMag .floor false v := rfl

theorem roundedMag_trunc_true (v : ℕ) : roundedMag .trunc true v = roundedMag .ceil true v := rfl

theorem floorUnits_signed (s : Bool) (v : ℕ) : floorUnits (signed s v) = signed s (roundedMag .floor s v) := by
  cases s with
  | false => rfl
  | true =>
    rw [floorUnits, signed_true, signed_true, roundedMag_floor_true]
    split_ifs <;> omega

theorem ceilUnits_signed (s : Bool) (v : ℕ) : ceilUnits (signed s v) = signed s (roundedMag .ceil s v) :=
  calc ceilUnits (signed s v) = -floorUnits (signed (!s) v) := by rw [signed_not]; rfl
    _ = signed s (roundedMag .ceil s v) := by rw [floorUnits_signed, signed_not, neg_neg, roundedMag_ceil]

theorem roundUnits_rint_signed (s : Bool) (v : ℕ) :
    roundUnits .rint (signed s v) = signed s (roundedMag .rint s v) := by
  rw [roundUnits, floorUnits_signed, roundedMag_rint]
  cases s with
  | false =>
    rw [roundedMag_floor_false]
    simp only [signed_false, Nat.cast_add, Nat.cast_ite]
    split_ifs <;> omega
  | true =>
    rw [roundedMag_floor_true]
    simp only [signed_true, Nat.cast_add, Nat.cast_ite]
    split_ifs <;> omega

theorem roundUnits_trunc_signed (s : Bool) (v : ℕ) :
    roundUnits .trunc (signed s v) = signed s (roundedMag .trunc s v) := by
  cases s with
  | false =>
    have hpos : signed false v ≥ 0 := Int.natCast_nonneg v
    rw [roundUnits, if_pos hpos, floorUnits_signed, roundedMag_trunc_false]
  | true =>
    obtain rfl | hv := v.eq_zero_or_pos
    · rfl
    · have hneg : ¬ signed true v ≥ 0 := by rw [signed_true]; omega
      rw [roundUnits, if_neg hneg, ceilUnits_signed, roundedMag_trunc_true]

theorem roundUnits_signed (o : RoundOp) (s : Bool) (v : ℕ) :
    roundUnits o (signed s v) = signed s (roundedMag o s v) := by
  cases o with
  | ceil => exact ceilUnits_signed s v
  | floor => exact floorUnits_signed s v
  | rint => exact roundUnits_rint_signed s v
  | trunc => exact roundUnits_trunc_signed s v

/-! ### The branches of the exact roundings (R170, R176 of 43_rounding.md) -/

theorem roundHalf_of_finite (p : Params) (o : RoundOp) {h : Half} (hfin : exp16 h ≠ 31) :
    roundHalf p o h = pack16 (sign16 h) (magOfNat (roundedMag o (sign16 h) (magUnits (mag16 h)))) := by
  rw [roundHalf, if_neg hfin, scaled16_eq_signed, roundUnits_signed, natAbs_signed]

theorem roundHalf_of_exp16_eq_31 (p : Params) (o : RoundOp) {h : Half} (he : exp16 h = 31) :
    roundHalf p o h = if isNan16 h then roundNanOf p h else h :=
  if_pos he

theorem roundHalf_of_infinity (p : Params) (o : RoundOp) {h : Half} (he : exp16 h = 31) (hn : isNan16 h = false) :
    roundHalf p o h = h := by
  rw [roundHalf_of_exp16_eq_31 p o he, hn]
  rfl

theorem roundHalf_of_nan (p : Params) (o : RoundOp) {h : Half} (hn : isNan16 h = true) :
    roundHalf p o h = roundNanOf p h := by
  obtain ⟨he, -⟩ := (isNan16_iff_fields h).mp hn
  rw [roundHalf_of_exp16_eq_31 p o he, if_pos hn]

/-- Roundings that choose the same integer for a half's sign and magnitude agree on it. -/
theorem roundHalf_congr (p : Params) {o o' : RoundOp} {h : Half}
    (hmag : roundedMag o (sign16 h) (magUnits (mag16 h)) = roundedMag o' (sign16 h) (magUnits (mag16 h))) :
    roundHalf p o h = roundHalf p o' h := by
  by_cases he : exp16 h = 31
  · rw [roundHalf_of_exp16_eq_31 p _ he, roundHalf_of_exp16_eq_31 p _ he]
  · rw [roundHalf_of_finite p _ he, roundHalf_of_finite p _ he, hmag]

/-! ### The half of an integer (R170 of 43_rounding.md) -/

theorem log2_eq_of_mul_eq {n keep e : ℕ} (hlo : 1024 ≤ keep) (hhi : keep < 2048) (hn : n * 1024 = keep * 2 ^ e) :
    Nat.log2 n = e := by
  have hpow : 0 < 2 ^ e := by positivity
  have hle : 1024 * 2 ^ e ≤ keep * 2 ^ e := Nat.mul_le_mul_right _ hlo
  have hlt : keep * 2 ^ e < 2048 * 2 ^ e := Nat.mul_lt_mul_of_pos_right hhi hpow
  rw [Nat.log2_eq_iff (by omega), pow_succ]
  omega

/-- The field built from the top bit of an integer is the finite magnitude field with that integer as its value. -/
theorem magOfNat_of_magUnits {k n : ℕ} (hk : k < 0x7c00) (hn : magUnits k = n * 2 ^ 24) : magOfNat n = k := by
  obtain ⟨u, keep, rfl, hkeep, hu⟩ := exists_scale k
  rw [magUnits_scale hkeep.le hu hk.le] at hn
  obtain rfl | hpos := n.eq_zero_or_pos
  · obtain rfl : keep = 0 := by simpa using hn
    obtain rfl : u = 0 := by omega
    rfl
  · have hu14 : 14 ≤ u := by
      by_contra hlt
      have hle : 2 ^ u ≤ 2 ^ 13 := Nat.pow_le_pow_right (by decide) (by omega)
      have hprod : keep * 2 ^ u < 2048 * 2 ^ 13 := Nat.mul_lt_mul_of_lt_of_le hkeep hle (by decide)
      omega
    have hkeep1024 : 1024 ≤ keep := by omega
    have hfield : (u - 14 + 15) * 1024 + (keep - 1024) = u * 1024 + keep := by omega
    have hn1024 : n * 1024 = keep * 2 ^ (u - 14) := by
      refine Nat.eq_of_mul_eq_mul_right (show 0 < 2 ^ 14 by decide) ?_
      rw [mul_assoc, mul_assoc, pow_sub_mul_pow 2 hu14, hn]
      rfl
    rw [magOfNat, if_neg hpos.ne', log2_eq_of_mul_eq hkeep1024 hkeep hn1024, hn1024,
      Nat.mul_div_cancel _ (by positivity), hfield]

/-! ### Setting and flipping single bits of a half -/

theorem pack16_or_pack16 (s s' : Bool) (k k' : ℕ) : pack16 s k ||| pack16 s' k' = pack16 (s || s') (k ||| k') := by
  simp only [pack16]
  rw [BitVec.or_append, BitVec.ofBool_or_ofBool, BitVec.ofNat_or]

theorem and_signBit (h : Half) : h &&& 0x8000#16 = pack16 (sign16 h) 0 := by
  apply BitVec.eq_of_toNat_eq
  have hsign : (h &&& 0x8000#16).toNat = (sign16 h).toNat * 32768 := Nat.and_two_pow h.toNat 15
  rw [toNat_pack16, hsign, Nat.zero_mod, Nat.add_zero]

theorem ofNat_eq_pack16 {k : ℕ} (hk : k < 0x8000) : BitVec.ofNat 16 k = pack16 false k := by
  apply BitVec.eq_of_toNat_eq
  rw [toNat_pack16, BitVec.toNat_ofNat, Bool.toNat_false]
  omega

theorem and_signBit_or_ofNat (h : Half) {k : ℕ} (hk : k < 0x8000) :
    h &&& 0x8000#16 ||| BitVec.ofNat 16 k = pack16 (sign16 h) k := by
  rw [and_signBit, ofNat_eq_pack16 hk, pack16_or_pack16, Bool.or_false, Nat.zero_or]

theorem or_quietBit (h : Half) : h ||| 0x0200#16 = pack16 (sign16 h) (mag16 h ||| 0x0200) := by
  have hbit : 0x0200#16 = pack16 false 0x0200 := by decide
  conv_lhs => rw [← pack16_fields h, hbit, pack16_or_pack16, Bool.or_false]

theorem pack16_xor_signBit (s : Bool) (k : ℕ) : pack16 s k ^^^ 0x8000#16 = pack16 (!s) k := by
  have hbit : 0x8000#16 = pack16 true 0 := by decide
  simp only [hbit, pack16]
  rw [BitVec.xor_append, BitVec.xor_zero, BitVec.ofBool_xor_ofBool, Bool.xor_true]

theorem xor_signBit (h : Half) : h ^^^ 0x8000#16 = pack16 (!sign16 h) (mag16 h) := by
  conv_lhs => rw [← pack16_fields h, pack16_xor_signBit]

theorem sign16_xor_signBit (h : Half) : sign16 (h ^^^ 0x8000#16) = !sign16 h := by rw [xor_signBit, sign16_pack16]

theorem mag16_xor_signBit (h : Half) : mag16 (h ^^^ 0x8000#16) = mag16 h := by
  rw [xor_signBit, mag16_pack16, Nat.mod_eq_of_lt (mag16_lt h)]

theorem exp16_xor_signBit (h : Half) : exp16 (h ^^^ 0x8000#16) = exp16 h := by
  rw [exp16_eq_mag, exp16_eq_mag, mag16_xor_signBit]

theorem isNan16_xor_signBit (h : Half) : isNan16 (h ^^^ 0x8000#16) = isNan16 h := by
  rw [Bool.eq_iff_iff, isNan16_iff_mag, isNan16_iff_mag, mag16_xor_signBit]

/-! ### The branches of the bit-level algorithm (R175 of 43_rounding.md) -/

/-- The choice in the terms of R175's lines `up = …`. -/
theorem roundsAway_eq_up (o : RoundOp) (neg : Bool) (keep rem half : ℕ) :
    roundsAway o neg keep rem half =
      (o == .ceil && !neg && decide (rem ≠ 0) || o == .floor && neg && decide (rem ≠ 0) ||
        o == .rint && (decide (rem > half) || decide (rem = half) && decide (keep % 2 = 1))) := by
  cases o <;> simp [roundsAway, roundsUp, beq_eq_decide]

theorem roundBits_of_whole (o : RoundOp) {h : Half} (hmag : mag16 h ≥ 0x6400 ∨ mag16 h = 0) : roundBits o h = h :=
  if_pos hmag

theorem roundBits_of_lt_one (o : RoundOp) {h : Half} (hpos : 0 < mag16 h) (hlt : mag16 h < 0x3c00) :
    roundBits o h = pack16 (sign16 h) (if roundsAway o (sign16 h) 0 (mag16 h) 0x3800 then 0x3c00 else 0) := by
  have hfrac : ¬ (mag16 h ≥ 0x6400 ∨ mag16 h = 0) := by omega
  have hup : roundsAway o (sign16 h) 0 (mag16 h) 0x3800 =
      (o == .ceil && !sign16 h || o == .floor && sign16 h || o == .rint && decide (mag16 h > 0x3800)) := by
    rw [roundsAway_eq_up]
    simp [hpos.ne']
  rw [roundBits, if_neg hfrac, if_pos hlt, hup]
  dsimp only
  split
  · exact and_signBit_or_ofNat h (by decide)
  · exact and_signBit_or_ofNat h (by decide)

theorem roundBits_of_one_le (o : RoundOp) {h : Half} {fb : ℕ} (hlo : 0x3c00 ≤ mag16 h) (hhi : mag16 h < 0x6400)
    (hfb : fb = 25 - mag16 h / 1024) :
    roundBits o h = pack16 (sign16 h) (mag16 h - mag16 h % 2 ^ fb +
      if roundsAway o (sign16 h) (mag16 h / 2 ^ fb) (mag16 h % 2 ^ fb) (2 ^ (fb - 1)) then 2 ^ fb else 0) := by
  have hfrac : ¬ (mag16 h ≥ 0x6400 ∨ mag16 h = 0) := by omega
  have hpow : 2 ^ fb ≤ 2 ^ 10 := Nat.pow_le_pow_right (by decide) (by omega)
  rw [roundBits, if_neg hfrac, if_neg hlo.not_gt, ← and_signBit_or_ofNat, roundsAway_eq_up, hfb]
  · rfl
  · split <;> omega

/-! ### The algorithm's magnitude field has the chosen integer as its value (R175 of 43_rounding.md) -/

theorem magUnits_of_whole (o : RoundOp) (neg : Bool) {a : ℕ} (ha : a ≥ 0x6400 ∨ a = 0) (hhi : a < 0x7c00) :
    magUnits a = roundedMag o neg (magUnits a) * 2 ^ 24 := by
  have ⟨n, hn⟩ : ∃ n, magUnits a = n * 2 ^ 24 := by
    obtain hlo | rfl := ha
    · obtain ⟨u, keep, rfl, hkeep, hu⟩ := exists_scale a
      obtain ⟨t, rfl⟩ := Nat.exists_eq_add_of_le' (show 24 ≤ u by omega)
      exact ⟨keep * 2 ^ t, by rw [magUnits_scale hkeep.le hu hhi.le, pow_add, mul_assoc]⟩
    · exact ⟨0, rfl⟩
  rw [hn, roundedMag_of_whole]

theorem magUnits_of_lt_one (o : RoundOp) (neg : Bool) {a : ℕ} (hlt : a < 0x3c00) :
    magUnits (if roundsAway o neg 0 a 0x3800 then 0x3c00 else 0) = roundedMag o neg (magUnits a) * 2 ^ 24 := by
  have hunits : magUnits a < 2 ^ 24 := magUnits_one ▸ (magUnits_lt_iff (by omega) (by decide)).mpr hlt
  have haway : roundsAway o neg 0 a 0x3800 = roundsAway o neg 0 (magUnits a) (2 ^ 23) := by
    rw [← magUnits_half]
    refine roundsAway_congr o neg rfl ?_ ?_ ?_
    · exact (magUnits_eq_iff (k := 0) (by omega) (by decide)).symm
    · exact (magUnits_lt_iff (by decide) (by omega)).symm
    · exact (magUnits_eq_iff (by omega) (by decide)).symm
  rw [roundedMag, Nat.div_eq_of_lt hunits, Nat.mod_eq_of_lt hunits, haway]
  split
  · rw [magUnits_one, zero_add, one_mul]
  · rfl

section

/-! From 1 on: `fb` of the bits of the significand `keep` are below the binary point, and the field's exponent part
`(24 - fb) * 1024` does not reach them. -/

variable {fb keep : ℕ} (hfb : fb ≤ 10)
include hfb

theorem two_pow_succ_dvd_exponent_part : 2 ^ (fb + 1) ∣ (24 - fb) * 1024 := by
  interval_cases fb <;> decide

theorem two_pow_mul_two_pow_sub : 2 ^ fb * 2 ^ (24 - fb) = 2 ^ 24 := pow_mul_pow_sub 2 (by omega)

theorem field_mod_two_pow : ((24 - fb) * 1024 + keep) % 2 ^ fb = keep % 2 ^ fb := by
  obtain ⟨c, hc⟩ := two_pow_succ_dvd_exponent_part hfb
  rw [hc, pow_succ, mul_assoc, Nat.mul_add_mod]

theorem field_div_two_pow_mod_two : ((24 - fb) * 1024 + keep) / 2 ^ fb % 2 = keep / 2 ^ fb % 2 := by
  obtain ⟨c, hc⟩ := two_pow_succ_dvd_exponent_part hfb
  rw [hc, pow_succ, mul_assoc, Nat.mul_add_div (by positivity), Nat.mul_add_mod]

theorem units_div_two_pow : keep * 2 ^ (24 - fb) / 2 ^ 24 = keep / 2 ^ fb := by
  rw [← two_pow_mul_two_pow_sub hfb, Nat.mul_div_mul_right _ _ (by positivity)]

theorem units_mod_two_pow : keep * 2 ^ (24 - fb) % 2 ^ 24 = keep % 2 ^ fb * 2 ^ (24 - fb) := by
  rw [← two_pow_mul_two_pow_sub hfb, Nat.mul_mod_mul_right]

/-- The choice made on the field is the one made on its value. -/
theorem roundsAway_field (o : RoundOp) (neg : Bool) (hpos : 0 < fb) :
    roundsAway o neg (((24 - fb) * 1024 + keep) / 2 ^ fb) (((24 - fb) * 1024 + keep) % 2 ^ fb) (2 ^ (fb - 1)) =
      roundsAway o neg (keep * 2 ^ (24 - fb) / 2 ^ 24) (keep * 2 ^ (24 - fb) % 2 ^ 24) (2 ^ 23) := by
  have hhalf : 2 ^ (fb - 1) * 2 ^ (24 - fb) = 2 ^ 23 := by rw [← pow_add]; congr 1; omega
  have hscale : 0 < 2 ^ (24 - fb) := by positivity
  rw [field_mod_two_pow hfb, units_div_two_pow hfb, units_mod_two_pow hfb, ← hhalf]
  refine roundsAway_congr o neg (field_div_two_pow_mod_two hfb) ?_ ?_ ?_
  · rw [Nat.mul_eq_zero, or_iff_left hscale.ne']
  · exact (Nat.mul_lt_mul_right hscale).symm
  · exact (Nat.mul_left_inj hscale.ne').symm

theorem integer_part_bounds (hlo : 1024 ≤ keep) (hhi : keep < 2048) :
    1024 ≤ keep / 2 ^ fb * 2 ^ fb ∧ (keep / 2 ^ fb + 1) * 2 ^ fb ≤ 2048 := by
  interval_cases fb <;> omega

/-- The field with the integer part of `keep`, or one more, as its significand: a carry may raise the exponent. -/
theorem magUnits_integer_part (hlo : 1024 ≤ keep) (hhi : keep < 2048) {up : ℕ} (hup : up ≤ 1) :
    magUnits ((24 - fb) * 1024 + (keep / 2 ^ fb + up) * 2 ^ fb) = (keep / 2 ^ fb + up) * 2 ^ 24 := by
  obtain ⟨hlow, hhigh⟩ := integer_part_bounds hfb hlo hhi
  have hge : keep / 2 ^ fb * 2 ^ fb ≤ (keep / 2 ^ fb + up) * 2 ^ fb := Nat.mul_le_mul_right _ (by omega)
  have hle : (keep / 2 ^ fb + up) * 2 ^ fb ≤ (keep / 2 ^ fb + 1) * 2 ^ fb := Nat.mul_le_mul_right _ (by omega)
  rw [magUnits_scale (hle.trans hhigh) (.inr (hlow.trans hge)) (by omega), mul_assoc, two_pow_mul_two_pow_sub hfb]

end

theorem magUnits_of_one_le (o : RoundOp) (neg : Bool) {a fb : ℕ} (hlo : 0x3c00 ≤ a) (hhi : a < 0x6400)
    (hfb : fb = 25 - a / 1024) :
    magUnits (a - a % 2 ^ fb + if roundsAway o neg (a / 2 ^ fb) (a % 2 ^ fb) (2 ^ (fb - 1)) then 2 ^ fb else 0) =
      roundedMag o neg (magUnits a) * 2 ^ 24 := by
  obtain ⟨u, keep, rfl, hkeep, hu⟩ := exists_scale a
  obtain rfl : u = 24 - fb := by omega
  have hkeep1024 : 1024 ≤ keep := by omega
  have hfb10 : fb ≤ 10 := by omega
  have hdrop : (24 - fb) * 1024 + keep - keep % 2 ^ fb = (24 - fb) * 1024 + keep / 2 ^ fb * 2 ^ fb := by
    have hsplit := Nat.div_add_mod' keep (2 ^ fb)
    omega
  rw [roundsAway_field hfb10 o neg (by omega), field_mod_two_pow hfb10, hdrop, roundedMag,
    magUnits_scale hkeep.le hu (by omega), units_div_two_pow hfb10]
  split
  · rw [← magUnits_integer_part hfb10 hkeep1024 hkeep le_rfl, Nat.succ_mul, add_assoc]
  · rw [← magUnits_integer_part hfb10 hkeep1024 hkeep zero_le_one, add_zero, add_zero]

theorem roundBits_of_finite (o : RoundOp) {h : Half} (hfin : exp16 h ≠ 31) :
    ∃ k < 0x7c00, roundBits o h = pack16 (sign16 h) k ∧
      magUnits k = roundedMag o (sign16 h) (magUnits (mag16 h)) * 2 ^ 24 := by
  have hmag := mag16_lt_infinity_of_finite hfin
  by_cases hwhole : mag16 h ≥ 0x6400 ∨ mag16 h = 0
  · exact ⟨mag16 h, hmag, by rw [roundBits_of_whole o hwhole, pack16_fields], magUnits_of_whole o _ hwhole hmag⟩
  obtain hlt | hge := lt_or_ge (mag16 h) 0x3c00
  · refine ⟨_, ?_, roundBits_of_lt_one o (by omega) hlt, magUnits_of_lt_one o _ hlt⟩
    split <;> decide
  · have hpow : 2 ^ (25 - mag16 h / 1024) ≤ 2 ^ 10 := Nat.pow_le_pow_right (by decide) (by omega)
    refine ⟨_, ?_, roundBits_of_one_le o hge (by omega) rfl, magUnits_of_one_le o _ hge (by omega) rfl⟩
    split <;> omega

/-- Settles O52: both give a finite half its sign and the magnitude field of one integer, and an infinity itself. -/
theorem bitLevelRoundingIsExactRounding : Obligations.BitLevelRoundingIsExactRounding := by
  intro p o h hn
  by_cases he : exp16 h = 31
  · have hge := (exp16_eq_31_iff h).mp he
    rw [roundHalf_of_infinity p o he hn, roundBits_of_whole o (.inl (by omega))]
  · obtain ⟨k, hk, hbits, hunits⟩ := roundBits_of_finite o he
    rw [hbits, roundHalf_of_finite p o he, magOfNat_of_magUnits hk hunits]

/-! ### The integer chosen, by value (R171 to R174 of 43_rounding.md) -/

/-- The integer a rounding chooses for the value `v` (R171 to R174 of 43_rounding.md). -/
def RoundOp.integerOf (o : RoundOp) (v : ℚ) : ℤ :=
  match o with
  | .ceil => ⌈v⌉
  | .floor => ⌊v⌋
  | .rint => rintOf v
  | .trunc => truncOf v

theorem integerOf_intCast (o : RoundOp) (n : ℤ) : o.integerOf n = n := by
  cases o <;> simp [RoundOp.integerOf, rintOf, truncOf]

theorem abs_rintOf_sub_le (v : ℚ) : |(rintOf v : ℚ) - v| ≤ 1 / 2 := by
  have hlo := Int.floor_le v
  have hhi := Int.lt_floor_add_one v
  rw [abs_le, rintOf]
  split_ifs <;> push_cast <;> constructor <;> linarith

theorem floorUnits_eq_floor (v : ℤ) : floorUnits v = ⌊(v : ℚ) / 2 ^ 24⌋ := by
  have hfloor := Rat.floor_intCast_div_natCast v (2 ^ 24)
  push_cast at hfloor
  exact hfloor.symm

theorem ceilUnits_eq_ceil (v : ℤ) : ceilUnits v = ⌈(v : ℚ) / 2 ^ 24⌉ := by
  have hfloor := floorUnits_eq_floor (-v)
  rw [Int.cast_neg, neg_div, Int.floor_neg] at hfloor
  rw [ceilUnits, ← floorUnits, hfloor, neg_neg]

theorem roundUnits_rint_eq_rintOf (v : ℤ) : roundUnits .rint v = rintOf ((v : ℚ) / 2 ^ 24) := by
  have hlt : 2 * (v - floorUnits v * 2 ^ 24) < 2 ^ 24 ↔ (v : ℚ) / 2 ^ 24 - floorUnits v < 1 / 2 := by
    rw [← Int.cast_lt (R := ℚ)]
    push_cast
    constructor <;> intro h <;> linarith
  have hgt : 2 * (v - floorUnits v * 2 ^ 24) > 2 ^ 24 ↔ (v : ℚ) / 2 ^ 24 - floorUnits v > 1 / 2 := by
    rw [gt_iff_lt, ← Int.cast_lt (R := ℚ)]
    push_cast
    constructor <;> intro h <;> linarith
  rw [rintOf, ← floorUnits_eq_floor]
  simp only [roundUnits, hlt, hgt]

theorem roundUnits_eq_integerOf (o : RoundOp) (v : ℤ) : roundUnits o v = o.integerOf ((v : ℚ) / 2 ^ 24) := by
  cases o with
  | ceil => exact ceilUnits_eq_ceil v
  | floor => exact floorUnits_eq_floor v
  | rint => exact roundUnits_rint_eq_rintOf v
  | trunc =>
    have hsign : (v : ℚ) / 2 ^ 24 ≥ 0 ↔ v ≥ 0 := by
      rw [ge_iff_le, le_div_iff₀ (by positivity), zero_mul, Int.cast_nonneg_iff]
    simp only [roundUnits, RoundOp.integerOf, truncOf, hsign, floorUnits_eq_floor, ceilUnits_eq_ceil]

/-- R170: a finite half is rounded to the half with the chosen integer as its value and the operand's sign. -/
theorem roundHalf_roundsTo (p : Params) (o : RoundOp) {h : Half} (hfin : exp16 h ≠ 31) :
    RoundsTo h (o.integerOf (val16 h)) (roundHalf p o h) := by
  obtain ⟨k, hk, -, hunits⟩ := roundBits_of_finite o hfin
  have hinteger : o.integerOf (val16 h) = signed (sign16 h) (roundedMag o (sign16 h) (magUnits (mag16 h))) := by
    rw [val16_eq_scaled16, ← roundUnits_eq_integerOf, scaled16_eq_signed, roundUnits_signed]
  rw [roundHalf_of_finite p o hfin, magOfNat_of_magUnits hk hunits, hinteger]
  refine ⟨?_, sign16_pack16 _ _, val16_pack16_of_magUnits hk hunits⟩
  rw [exp16_pack16]
  omega

/-! ### NaNs (R176 of 43_rounding.md) -/

theorem roundNanOf_eq_ite (p : Params) (h : Half) :
    roundNanOf p h = if p.roundNan = .pass then h else h ||| 0x0200#16 := by
  cases hp : p.roundNan <;> simp [roundNanOf, hp]

theorem isNan16_or_quietBit {h : Half} (hn : isNan16 h = true) : isNan16 (h ||| 0x0200#16) = true := by
  rw [isNan16_iff_mag] at hn ⊢
  have hle : mag16 h ≤ mag16 h ||| 0x0200 := Nat.left_le_or
  have hlt : mag16 h ||| 0x0200 < 2 ^ 15 := Nat.or_lt_two_pow (mag16_lt h) (by decide)
  rw [or_quietBit, mag16_pack16]
  omega

theorem isNan16_roundNanOf (p : Params) {h : Half} (hn : isNan16 h = true) : isNan16 (roundNanOf p h) = true := by
  rw [roundNanOf_eq_ite]
  split
  · exact hn
  · exact isNan16_or_quietBit hn

theorem roundNanOf_roundNanOf (p : Params) (h : Half) : roundNanOf p (roundNanOf p h) = roundNanOf p h := by
  simp only [roundNanOf_eq_ite]
  split
  · rfl
  · rw [BitVec.or_assoc, BitVec.or_self]

theorem roundNanOf_xor_signBit (p : Params) (h : Half) :
    roundNanOf p (h ^^^ 0x8000#16) = roundNanOf p h ^^^ 0x8000#16 := by
  simp only [roundNanOf_eq_ite]
  split
  · rfl
  · rw [or_quietBit, or_quietBit, sign16_xor_signBit, mag16_xor_signBit, pack16_xor_signBit]

theorem isNan16_roundHalf (p : Params) (o : RoundOp) (h : Half) : isNan16 (roundHalf p o h) = isNan16 h := by
  cases hn : isNan16 h with
  | true => rw [roundHalf_of_nan p o hn, isNan16_roundNanOf p hn]
  | false =>
    by_cases he : exp16 h = 31
    · rw [roundHalf_of_infinity p o he hn, hn]
    · obtain ⟨hfin, -, -⟩ := roundHalf_roundsTo p o he
      exact (isNan16_eq_false_iff _).mpr (mag16_lt_infinity_of_finite hfin).le

/-! ### The four operations (R171 to R174 of 43_rounding.md) -/

/-- A rounding of a finite half, of an infinity and of a NaN. -/
theorem roundHalf_cases (p : Params) (o : RoundOp) (h : Half) :
    (exp16 h ≠ 31 → RoundsTo h (o.integerOf (val16 h)) (roundHalf p o h)) ∧
    (exp16 h = 31 → isNan16 h = false → roundHalf p o h = h) ∧
    (isNan16 h = true → roundHalf p o h = if p.roundNan = .pass then h else h ||| 0x0200#16) :=
  ⟨roundHalf_roundsTo p o, roundHalf_of_infinity p o, fun hn => by rw [roundHalf_of_nan p o hn, roundNanOf_eq_ite]⟩

/-- Settles O48: the integer CEIL chooses is the ceiling. -/
theorem ceilGivesTheCeiling : Obligations.CeilGivesTheCeiling :=
  ⟨fun _ _ _ _ => ⟨rfl, rfl⟩, fun p => roundHalf_cases p .ceil⟩

/-- Settles O49: the integer FLOOR chooses is the floor. -/
theorem floorGivesTheFloor : Obligations.FloorGivesTheFloor :=
  ⟨fun _ _ _ _ => ⟨rfl, rfl⟩, fun p => roundHalf_cases p .floor⟩

/-- Settles O50: the integer RINT chooses is the nearest one, ties to even. -/
theorem rintGivesTheNearestEvenInteger : Obligations.RintGivesTheNearestEvenInteger :=
  ⟨fun _ _ _ _ => ⟨rfl, rfl⟩, fun p => roundHalf_cases p .rint⟩

/-- Settles O51: the integer TRUNC chooses is the one toward zero. -/
theorem truncGivesTheIntegerTowardZero : Obligations.TruncGivesTheIntegerTowardZero :=
  ⟨fun _ _ _ _ => ⟨rfl, rfl⟩, fun p => roundHalf_cases p .trunc⟩

/-! ### Integral values and the laws (R176, R177 of 43_rounding.md) -/

theorem roundHalf_of_integral (p : Params) (o : RoundOp) {h : Half} (hfin : exp16 h ≠ 31) {n : ℤ} (hn : val16 h = n) :
    roundHalf p o h = h := by
  obtain ⟨hfin', hsign, hval⟩ := roundHalf_roundsTo p o hfin
  rw [hn, integerOf_intCast, ← hn] at hval
  exact eq_of_sign16_of_val16 hfin' hfin hsign hval

/-- Settles O53: an integral value rounds to itself, and a half is its sign and its value. -/
theorem roundingKeepsNansInfinitiesAndIntegers : Obligations.RoundingKeepsNansInfinitiesAndIntegers := by
  intro p o h
  refine ⟨fun hinf => ?_, fun hfin ⟨_, hn⟩ => roundHalf_of_integral p o hfin hn,
    fun hn => (isNan16_roundHalf p o h).trans hn, fun hn hp => ?_, fun hn hp => ?_⟩
  · obtain ⟨he, -⟩ := (isInf16_iff_fields h).mp hinf
    exact roundHalf_of_infinity p o he ((isNan16_eq_false_iff h).mpr ((isInf16_iff_mag h).mp hinf).le)
  · rw [roundHalf_of_nan p o hn, roundNanOf_eq_ite, if_pos hp]
  · rw [roundHalf_of_nan p o hn, roundNanOf_eq_ite, if_neg (by rw [hp]; decide)]

theorem roundHalf_idempotent (p : Params) (o : RoundOp) (h : Half) :
    roundHalf p o (roundHalf p o h) = roundHalf p o h := by
  by_cases he : exp16 h = 31
  · cases hn : isNan16 h with
    | false => rw [roundHalf_of_infinity p o he hn, roundHalf_of_infinity p o he hn]
    | true => rw [roundHalf_of_nan p o hn, roundHalf_of_nan p o (isNan16_roundNanOf p hn), roundNanOf_roundNanOf]
  · obtain ⟨hfin, -, hval⟩ := roundHalf_roundsTo p o he
    exact roundHalf_of_integral p o hfin hval

/-- FLOOR of the negated half is CEIL of the half, negated. -/
theorem roundHalf_floor_xor_signBit (p : Params) (h : Half) :
    roundHalf p .floor (h ^^^ 0x8000#16) = roundHalf p .ceil h ^^^ 0x8000#16 := by
  have hexp := exp16_xor_signBit h
  by_cases he : exp16 h = 31
  · rw [roundHalf_of_exp16_eq_31 p _ he, roundHalf_of_exp16_eq_31 p _ (hexp.trans he), isNan16_xor_signBit,
      roundNanOf_xor_signBit]
    split <;> rfl
  · rw [roundHalf_of_finite p _ he, roundHalf_of_finite p _ (hexp.trans_ne he), sign16_xor_signBit, mag16_xor_signBit,
      pack16_xor_signBit, roundedMag_ceil]

/-- Settles O54: on values the laws are those of the integers chosen; TRUNC and CEIL choose as FLOOR does by the
sign. -/
theorem roundingLaws : Obligations.RoundingLaws := by
  intro p h
  refine ⟨fun o => roundHalf_idempotent p o h, fun hfin => ?_, fun hs => ?_, fun hs => ?_, ?_,
    fun o hn => (isNan16_roundHalf p o h).symm.trans hn, fun o hfin => ?_⟩
  · obtain ⟨-, -, hfloor⟩ := roundHalf_roundsTo p .floor hfin
    obtain ⟨-, -, hceil⟩ := roundHalf_roundsTo p .ceil hfin
    obtain ⟨-, -, hrint⟩ := roundHalf_roundsTo p .rint hfin
    rw [hfloor, hceil, hrint]
    exact ⟨Int.floor_le _, Int.le_ceil _, abs_rintOf_sub_le _⟩
  · exact roundHalf_congr p (by rw [hs, roundedMag_trunc_false])
  · exact roundHalf_congr p (by rw [hs, roundedMag_trunc_true])
  · rw [roundHalf_floor_xor_signBit, BitVec.xor_assoc, BitVec.xor_self, BitVec.xor_zero]
  · obtain ⟨hfin', -, -⟩ := roundHalf_roundsTo p o hfin
    exact hfin'

end Sys2Proof.Machine
end

section
/-! PROOFS of the hex formatter family (44_hex_formatter.md). A numeral is read back by the assembler's own readers
of numbers, so the text of a finite half gives back its sign, its implicit bit, its mantissa and its exponent, and two
halves with one text are equal. Every character is a digit, a mark or a letter of NaN or Infinity, so each has an ASCII
code, which PACK keeps whole. -/

namespace Sys2Proof.Machine

/-! ### Characters (R204, R208 of 44_hex_formatter.md) -/

/-- The digits TOHEX writes. -/
def hexDigitChars : List Char := ['0', '1', '2', '3', '4', '5', '6', '7', '8', '9', 'a', 'b', 'c', 'd', 'e', 'f']

/-- The characters TOHEX writes (R208 of 44_hex_formatter.md). -/
def textChars : List Char :=
  hexDigitChars ++ ['x', 'p', '.', '-', 'N', 'a', 'N', 'I', 'n', 'f', 'i', 'n', 'i', 't', 'y']

theorem textChars_eq : textChars = "0123456789abcdefxp.-NaNInfinity".toList := rfl

theorem mem_textChars_of_mem_hexDigitChars {c : Char} (hc : c ∈ hexDigitChars) : c ∈ textChars :=
  List.mem_append_left _ hc

theorem toNat_lt_of_mem_textChars : ∀ c ∈ textChars, c.toNat < 256 := by simp [textChars, hexDigitChars]

theorem hexDigitChars_lowercase : ∀ c ∈ hexDigitChars, c ∉ ['A', 'B', 'C', 'D', 'E', 'F'] := by simp [hexDigitChars]

theorem hexDigit_digitChar : ∀ d < 16, hexDigit (digitChar d) = some d := by decide

theorem decDigit_digitChar : ∀ d < 10, decDigit (digitChar d) = some d := by decide

theorem digitChar_eq_zero_iff : ∀ d < 16, (digitChar d = '0' ↔ d = 0) := by decide

theorem digitChar_mem_hexDigitChars : ∀ d < 16, digitChar d ∈ hexDigitChars := by decide

/-! ### Numerals (R204, R205 of 44_hex_formatter.md) -/

theorem numeral_of_lt {base n : ℕ} (fuel : ℕ) (h : n < base) : numeral base (fuel + 1) n = [digitChar n] := if_pos h

theorem numeral_of_le {base n : ℕ} (fuel : ℕ) (h : base ≤ n) :
    numeral base (fuel + 1) n = numeral base fuel (n / base) ++ [digitChar (n % base)] := if_neg h.not_gt

theorem mem_numeral {base fuel n : ℕ} {c : Char} (hbase : 0 < base) (hc : c ∈ numeral base fuel n) :
    ∃ d < base, c = digitChar d := by
  induction fuel generalizing n with
  | zero => cases hc
  | succ fuel ih =>
    obtain hlt | hle := lt_or_ge n base
    · rw [numeral_of_lt fuel hlt, List.mem_singleton] at hc
      exact ⟨n, hlt, hc⟩
    · rw [numeral_of_le fuel hle, List.mem_append, List.mem_singleton] at hc
      obtain hc | hc := hc
      · exact ih hc
      · exact ⟨n % base, Nat.mod_lt n hbase, hc⟩

theorem mem_hexDigitChars_of_mem_numeral {base fuel n : ℕ} {c : Char} (hbase : 0 < base) (h16 : base ≤ 16)
    (hc : c ∈ numeral base fuel n) : c ∈ hexDigitChars := by
  obtain ⟨d, hd, rfl⟩ := mem_numeral hbase hc
  exact digitChar_mem_hexDigitChars d (hd.trans_le h16)

/-- A number with more than one digit, without its last one. -/
theorem div_base_bounds {base fuel n : ℕ} (hle : base ≤ n) (hn : n < base ^ (fuel + 1)) :
    0 < base ∧ 0 < n / base ∧ n / base < base ^ fuel := by
  rw [pow_succ'] at hn
  have hbase : 0 < base := Nat.pos_of_mul_pos_right (Nat.zero_lt_of_lt hn)
  exact ⟨hbase, Nat.div_pos hle hbase, Nat.div_lt_of_lt_mul hn⟩

/-- A numeral's first digit is 0 in the numeral of 0 alone. -/
theorem numeral_eq_cons {base fuel n : ℕ} (hn : n < base ^ (fuel + 1)) :
    ∃ d < base, ∃ ds, numeral base (fuel + 1) n = digitChar d :: ds ∧ (d = 0 → n = 0 ∧ ds = []) := by
  induction fuel generalizing n with
  | zero =>
    have hlt : n < base := by simpa using hn
    exact ⟨n, hlt, [], numeral_of_lt 0 hlt, fun h => ⟨h, rfl⟩⟩
  | succ fuel ih =>
    obtain hlt | hle := lt_or_ge n base
    · exact ⟨n, hlt, [], numeral_of_lt _ hlt, fun h => ⟨h, rfl⟩⟩
    · obtain ⟨-, hpos, hdiv⟩ := div_base_bounds hle hn
      obtain ⟨d, hd, ds, hds, hzero⟩ := ih hdiv
      refine ⟨d, hd, ds ++ [digitChar (n % base)], by rw [numeral_of_le _ hle, hds, List.cons_append], fun h => ?_⟩
      obtain ⟨h0, -⟩ := hzero h
      omega

theorem numeral_no_leading_zero {base fuel n : ℕ} (h16 : base ≤ 16) (hn : n < base ^ (fuel + 1))
    (hhead : (numeral base (fuel + 1) n).head? = some '0') : numeral base (fuel + 1) n = ['0'] := by
  obtain ⟨d, hd, ds, hds, hzero⟩ := numeral_eq_cons hn
  rw [hds, List.head?_cons, Option.some_inj] at hhead
  obtain ⟨-, rfl⟩ := hzero ((digitChar_eq_zero_iff d (hd.trans_le h16)).mp hhead)
  rw [hds, hhead]

/-! ### Reading a numeral back -/

theorem readNumber_singleton {base d : ℕ} {digit : Char → Option ℕ} {c : Char} (hc : digit c = some d) :
    readNumber base digit [c] = some d := by
  simp [readNumber, hc]

theorem readNumber_append_digit {base n d : ℕ} {digit : Char → Option ℕ} {cs : List Char} {c : Char}
    (hcs : readNumber base digit cs = some n) (hc : digit c = some d) :
    readNumber base digit (cs ++ [c]) = some (n * base + d) := by
  cases cs with
  | nil => cases hcs
  | cons x xs =>
    simp only [readNumber, List.isEmpty_cons, List.cons_append, Bool.false_eq_true, if_false] at hcs ⊢
    rw [← List.cons_append, List.foldl_append, hcs]
    simp [hc]

theorem readNumber_numeral {base fuel n : ℕ} {digit : Char → Option ℕ}
    (hdigit : ∀ d < base, digit (digitChar d) = some d) (hn : n < base ^ (fuel + 1)) :
    readNumber base digit (numeral base (fuel + 1) n) = some n := by
  induction fuel generalizing n with
  | zero =>
    have hlt : n < base := by simpa using hn
    rw [numeral_of_lt 0 hlt, readNumber_singleton (hdigit n hlt)]
  | succ fuel ih =>
    obtain hlt | hle := lt_or_ge n base
    · rw [numeral_of_lt _ hlt, readNumber_singleton (hdigit n hlt)]
    · obtain ⟨hbase, -, hdiv⟩ := div_base_bounds hle hn
      have hmod : n % base < base := Nat.mod_lt n hbase
      rw [numeral_of_le _ hle, readNumber_append_digit (ih hdiv) (hdigit _ hmod), Nat.div_add_mod']

theorem mem_digits {m : ℕ} {c : Char} (hc : c ∈ digits m) : c ∈ hexDigitChars :=
  mem_hexDigitChars_of_mem_numeral (by norm_num) le_rfl hc

theorem notMem_digits {c : Char} (hdigit : c ∉ hexDigitChars) (m : ℕ) : c ∉ digits m := mt mem_digits hdigit

theorem readNumber_digits {m : ℕ} (hm : m < 1024) : readNumber 16 hexDigit (digits m) = some m :=
  readNumber_numeral hexDigit_digitChar (hm.trans (by norm_num))

/-! ### Exponents (R205 of 44_hex_formatter.md) -/

theorem dec_of_neg {k : ℤ} (hk : k < 0) : dec k = '-' :: numeral 10 2 k.natAbs := by simp [dec, hk]

theorem dec_of_nonneg {k : ℤ} (hk : 0 ≤ k) : dec k = numeral 10 2 k.natAbs := by simp [dec, hk.not_gt]

theorem readExponent_neg {cs : List Char} {n : ℕ} (h : readNumber 10 decDigit cs = some n) :
    readExponent ('-' :: cs) = some (-(n : ℤ)) := by
  simp [readExponent, h]

theorem readExponent_unsigned {c : Char} {cs : List Char} {n : ℕ} (hminus : c ≠ '-') (hplus : c ≠ '+')
    (h : readNumber 10 decDigit (c :: cs) = some n) : readExponent (c :: cs) = some (n : ℤ) := by
  simp [readExponent, hminus, hplus, h]

theorem digitChar_ne_sign : ∀ d < 10, digitChar d ≠ '-' ∧ digitChar d ≠ '+' := by decide

theorem readExponent_dec {k : ℤ} (hk : k.natAbs < 100) : readExponent (dec k) = some k := by
  have hread : readNumber 10 decDigit (numeral 10 2 k.natAbs) = some k.natAbs :=
    readNumber_numeral decDigit_digitChar hk
  obtain hneg | hnonneg := lt_or_ge k 0
  · rw [dec_of_neg hneg, readExponent_neg hread, Int.ofNat_natAbs_of_nonpos hneg.le, neg_neg]
  · obtain ⟨d, hd, ds, hds, -⟩ := numeral_eq_cons (base := 10) (fuel := 1) hk
    obtain ⟨hminus, hplus⟩ := digitChar_ne_sign d hd
    rw [hds] at hread
    rw [dec_of_nonneg hnonneg, hds, readExponent_unsigned hminus hplus hread, Int.natAbs_of_nonneg hnonneg]

theorem mem_dec {k : ℤ} {c : Char} (hc : c ∈ dec k) : c = '-' ∨ c ∈ hexDigitChars := by
  rw [dec, List.mem_append] at hc
  obtain hc | hc := hc
  · split at hc
    · exact .inl (List.mem_singleton.mp hc)
    · cases hc
  · exact .inr (mem_hexDigitChars_of_mem_numeral (by norm_num) (by norm_num) hc)

theorem notMem_dec {c : Char} (hminus : c ≠ '-') (hdigit : c ∉ hexDigitChars) (k : ℤ) : c ∉ dec k :=
  fun h => (mem_dec h).elim hminus hdigit

/-- An exponent's numeral has no leading zero, with or without the sign before it. -/
theorem dec_no_leading_zero {k : ℤ} (hk : k.natAbs < 100) :
    ((dec k).head? = some '0' → dec k = ['0']) ∧ ((dec k)[0]? = some '-' → (dec k)[1]? ≠ some '0') := by
  obtain hneg | hnonneg := lt_or_ge k 0
  · obtain ⟨d, hd, ds, hds, hzero⟩ := numeral_eq_cons (base := 10) (fuel := 1) hk
    rw [dec_of_neg hneg, hds]
    refine ⟨by simp, fun _ h => ?_⟩
    have h0 : digitChar d = '0' := by simpa using h
    obtain ⟨hk0, -⟩ := hzero ((digitChar_eq_zero_iff d (by omega)).mp h0)
    omega
  · rw [dec_of_nonneg hnonneg]
    refine ⟨numeral_no_leading_zero (by norm_num) hk, fun h => ?_⟩
    have hmem := mem_hexDigitChars_of_mem_numeral (by norm_num) (by norm_num) (List.mem_of_getElem? h)
    exact absurd hmem (by decide)

/-! ### HEX_TRIM (R206 of 44_hex_formatter.md) -/

theorem mantissaDigits_of_none {p : Params} (hp : p.hexTrim = .none) (m : ℕ) : mantissaDigits p m = digits m := by
  simp [mantissaDigits, hp]

theorem mantissaDigits_of_run2 {p : Params} (hp : p.hexTrim = .run2) (m : ℕ) :
    mantissaDigits p m = if trailingZeros (digits m) ≥ 2 then
      (digits m).take ((digits m).length - trailingZeros (digits m)) else digits m := by
  simp [mantissaDigits, hp]

theorem mantissaDigits_zero (p : Params) : mantissaDigits p 0 = ['0'] := by
  cases hp : p.hexTrim with
  | none => rw [mantissaDigits_of_none hp]; rfl
  | run2 => rw [mantissaDigits_of_run2 hp]; rfl

/-- Under either setting the mantissa's characters are some of those of its numeral. -/
theorem mem_mantissaDigits {p : Params} {m : ℕ} {c : Char} (hc : c ∈ mantissaDigits p m) : c ∈ hexDigitChars := by
  cases hp : p.hexTrim with
  | none => exact mem_digits (mantissaDigits_of_none hp m ▸ hc)
  | run2 =>
    rw [mantissaDigits_of_run2 hp] at hc
    split at hc
    · exact mem_digits (List.mem_of_mem_take hc)
    · exact mem_digits hc

theorem trailingZeros_append_singleton (ds : List Char) (c : Char) :
    trailingZeros (ds ++ [c]) = if c = '0' then trailingZeros ds + 1 else 0 := by
  by_cases hc : c = '0' <;> simp [trailingZeros, hc]

theorem trailingZeros_le_length (ds : List Char) : trailingZeros ds ≤ ds.length :=
  (List.takeWhile_sublist _).length_le.trans_eq List.length_reverse

theorem trailingZeros_numeral_of_not_dvd {base fuel n : ℕ} (h16 : base ≤ 16) (hn : n < base ^ fuel)
    (hdvd : ¬ base ∣ n) : trailingZeros (numeral base fuel n) = 0 := by
  cases fuel with
  | zero => rfl
  | succ fuel =>
    have hbase : 0 < base := Nat.pos_of_ne_zero (by rintro rfl; simp at hn)
    have hlast : digitChar (n % base) ≠ '0' := by
      have hmod := Nat.mod_lt n hbase
      exact (digitChar_eq_zero_iff _ (by omega)).not.mpr (mt Nat.dvd_of_mod_eq_zero hdvd)
    obtain hlt | hle := lt_or_ge n base
    · rw [numeral_of_lt fuel hlt, ← List.nil_append [_], ← Nat.mod_eq_of_lt hlt, trailingZeros_append_singleton,
        if_neg hlast]
    · rw [numeral_of_le fuel hle, trailingZeros_append_singleton, if_neg hlast]

theorem trailingZeros_numeral_of_dvd {base fuel n : ℕ} (hpos : 0 < n) (hdvd : base ∣ n) :
    trailingZeros (numeral base (fuel + 1) n) = trailingZeros (numeral base fuel (n / base)) + 1 := by
  rw [numeral_of_le fuel (Nat.le_of_dvd hpos hdvd), trailingZeros_append_singleton, Nat.mod_eq_zero_of_dvd hdvd]
  exact if_pos rfl

/-- The numeral of a number that is not 0 ends in `k` zeros or more when the `k`th power of the base divides it. -/
theorem le_trailingZeros_numeral_iff {base fuel n : ℕ} (h16 : base ≤ 16) (hpos : 0 < n) (hn : n < base ^ fuel) (k : ℕ) :
    k ≤ trailingZeros (numeral base fuel n) ↔ base ^ k ∣ n := by
  induction k generalizing fuel n with
  | zero => simp
  | succ k ih =>
    by_cases hdvd : base ∣ n
    · obtain _ | fuel := fuel
      · rw [pow_zero] at hn
        omega
      · obtain ⟨-, hdivpos, hdiv⟩ := div_base_bounds (Nat.le_of_dvd hpos hdvd) hn
        rw [trailingZeros_numeral_of_dvd hpos hdvd, Nat.succ_le_succ_iff, ih hdivpos hdiv,
          Nat.dvd_div_iff_mul_dvd hdvd, pow_succ']
    · rw [trailingZeros_numeral_of_not_dvd h16 hn hdvd]
      exact iff_of_false (by omega) (mt (dvd_trans (dvd_pow_self base k.succ_ne_zero)) hdvd)

theorem two_le_trailingZeros_digits_iff {m : ℕ} (hm : m < 1024) :
    2 ≤ trailingZeros (digits m) ↔ m = 0x100 ∨ m = 0x200 ∨ m = 0x300 := by
  obtain rfl | hpos := Nat.eq_zero_or_pos m
  · decide
  · rw [digits, le_trailingZeros_numeral_iff le_rfl hpos (hm.trans (by norm_num))]
    omega

/-- RUN2 changes the digits exactly where it trims. -/
theorem mantissaDigits_run2_ne_digits_iff {p : Params} (hp : p.hexTrim = .run2) (m : ℕ) :
    mantissaDigits p m ≠ digits m ↔ 2 ≤ trailingZeros (digits m) := by
  rw [mantissaDigits_of_run2 hp]
  split
  · next htrim =>
    refine iff_of_true (fun h => ?_) htrim
    have hle := trailingZeros_le_length (digits m)
    have hlen := congrArg List.length h
    rw [List.length_take] at hlen
    omega
  · next htrim => exact iff_of_false (not_not.mpr rfl) htrim

/-! ### The text (R200 to R202 of 44_hex_formatter.md) -/

/-- The sign a text begins with (R202 of 44_hex_formatter.md). -/
def signChars (h : Half) : List Char := if sign16 h then ['-'] else []

/-- The implicit bit as it is printed (R202 of 44_hex_formatter.md). -/
def implicitBitChar (h : Half) : Char := if exp16 h = 0 then '0' else '1'

theorem implicitBitChar_eq_zero_iff (h : Half) : implicitBitChar h = '0' ↔ exp16 h = 0 := by simp [implicitBitChar]

/-- The exponent a finite half is printed with (R201, R202 of 44_hex_formatter.md). -/
def printedExponent (h : Half) : ℤ := if mag16 h = 0 then 0 else if exp16 h = 0 then -14 else (exp16 h : ℤ) - 15

/-- The text of a half that is no NaN, after its sign. -/
def unsignedChars (p : Params) (h : Half) : List Char :=
  if exp16 h = 31 then ['I', 'n', 'f', 'i', 'n', 'i', 't', 'y']
  else '0' :: 'x' :: implicitBitChar h :: '.' ::
    (mantissaDigits p (man16 h) ++ 'p' :: dec (printedExponent h))

theorem unsignedChars_of_infinity (p : Params) {h : Half} (he : exp16 h = 31) :
    unsignedChars p h = ['I', 'n', 'f', 'i', 'n', 'i', 't', 'y'] := if_pos he

theorem unsignedChars_of_finite (p : Params) {h : Half} (hfin : exp16 h ≠ 31) :
    unsignedChars p h = '0' :: 'x' :: implicitBitChar h :: '.' ::
      (mantissaDigits p (man16 h) ++ 'p' :: dec (printedExponent h)) := if_neg hfin

theorem printedExponent_of_zero {h : Half} (hmag : mag16 h = 0) : printedExponent h = 0 := if_pos hmag

theorem printedExponent_of_ne_zero {h : Half} (hmag : mag16 h ≠ 0) :
    printedExponent h = if exp16 h = 0 then -14 else (exp16 h : ℤ) - 15 := if_neg hmag

theorem natAbs_printedExponent_lt (h : Half) : (printedExponent h).natAbs < 100 := by
  have hexp := exp16_lt h
  unfold printedExponent
  split_ifs <;> omega

theorem mag16_of_infinity {h : Half} (he : exp16 h = 31) (hn : isNan16 h = false) : mag16 h = 0x7c00 :=
  le_antisymm ((isNan16_eq_false_iff h).mp hn) ((exp16_eq_31_iff h).mp he)

theorem toHexChars_of_nan (p : Params) {h : Half} (hn : isNan16 h = true) : toHexChars p h = ['N', 'a', 'N'] := by
  obtain ⟨he, hm⟩ := (isNan16_iff_fields h).mp hn
  simp [toHexChars, he, hm]

/-- The zeros print as the other finite halves do, with the digits and the exponent 0. -/
theorem toHexChars_of_not_nan (p : Params) {h : Half} (hn : isNan16 h = false) :
    toHexChars p h = signChars h ++ unsignedChars p h := by
  have hmag := mag16_eq_fields h
  by_cases h31 : exp16 h = 31
  · have hm : man16 h = 0 := by rw [mag16_of_infinity h31 hn] at hmag; omega
    simp [toHexChars, unsignedChars_of_infinity p h31, signChars, h31, hm]
  rw [unsignedChars_of_finite p h31]
  by_cases he : exp16 h = 0
  · by_cases hm : man16 h = 0
    · have hdec : dec (printedExponent h) = ['0'] := by rw [printedExponent_of_zero (by omega)]; rfl
      simp [toHexChars, signChars, implicitBitChar, he, hm, mantissaDigits_zero, hdec]
    · have hdec : dec (printedExponent h) = ['-', '1', '4'] := by
        rw [printedExponent_of_ne_zero (by omega), if_pos he]
        rfl
      simp [toHexChars, signChars, implicitBitChar, he, hm, hdec]
  · have hexponent : printedExponent h = (exp16 h : ℤ) - 15 := by rw [printedExponent_of_ne_zero (by omega), if_neg he]
    simp [toHexChars, signChars, implicitBitChar, he, h31, hexponent]

/-! ### The characters of the text (R208 of 44_hex_formatter.md) -/

theorem mem_textChars_of_mem_dec {k : ℤ} {c : Char} (hc : c ∈ dec k) : c ∈ textChars := by
  obtain rfl | hdigit := mem_dec hc
  · decide
  · exact mem_textChars_of_mem_hexDigitChars hdigit

theorem mem_textChars_of_mem_signChars {h : Half} {c : Char} (hc : c ∈ signChars h) : c ∈ textChars := by
  unfold signChars at hc
  split at hc
  · rw [List.mem_singleton.mp hc]
    decide
  · cases hc

theorem mem_textChars_of_mem_unsignedChars {p : Params} {h : Half} {c : Char} (hc : c ∈ unsignedChars p h) :
    c ∈ textChars := by
  by_cases h31 : exp16 h = 31
  · rw [unsignedChars_of_infinity p h31] at hc
    have hsub : ['I', 'n', 'f', 'i', 'n', 'i', 't', 'y'] ⊆ textChars := by simp [textChars]
    exact hsub hc
  · have hbit : implicitBitChar h ∈ textChars := by unfold implicitBitChar; split <;> decide
    rw [unsignedChars_of_finite p h31] at hc
    simp only [List.mem_cons, List.mem_append] at hc
    obtain rfl | rfl | rfl | rfl | hmantissa | rfl | hexponent := hc
    · decide
    · decide
    · exact hbit
    · decide
    · exact mem_textChars_of_mem_hexDigitChars (mem_mantissaDigits hmantissa)
    · decide
    · exact mem_textChars_of_mem_dec hexponent

theorem mem_textChars_of_mem_toHexChars {p : Params} {h : Half} {c : Char} (hc : c ∈ toHexChars p h) :
    c ∈ textChars := by
  cases hn : isNan16 h with
  | true =>
    rw [toHexChars_of_nan p hn] at hc
    have hsub : ['N', 'a', 'N'] ⊆ textChars := by simp [textChars]
    exact hsub hc
  | false =>
    rw [toHexChars_of_not_nan p hn, List.mem_append] at hc
    exact hc.elim mem_textChars_of_mem_signChars mem_textChars_of_mem_unsignedChars

/-- Settles O59: the digits are those of numerals, and the other characters are written out in R201 and R202. -/
theorem toHexWritesOnlyItsCharacterSet : Obligations.ToHexWritesOnlyItsCharacterSet :=
  fun _ _ _ hc => textChars_eq ▸ mem_textChars_of_mem_toHexChars hc

/-! ### The text on the ports (R201, R207 of 44_hex_formatter.md) -/

/-- TOHEX drives the ports with its text, and changes nothing else. -/
theorem exec_toHex (h : Half) (ignHi ignB : BitVec 16) (s : State) :
    exec (.toHex h ignHi ignB) s = .next { s with out := deliverText (toHexChars s.params h) } := rfl

/-- Settles O55: the text of a special value is the same in every build, and PACK gives its codes. -/
theorem toHexOfSpecialValues : Obligations.ToHexOfSpecialValues := by
  intro h ignHi ignB s
  refine ⟨fun hn => ?_, ?_, ?_, ?_, ?_⟩
  · rw [exec_toHex, toHexChars_of_nan _ hn]
    rfl
  all_goals
    rintro rfl
    rfl

theorem toNat_charAt_packText {cs : List Char} {k : ℕ} {c : Char} (hport : k < 12) (hc : cs[k]? = some c) :
    (charAt (packText cs) k).toNat = c.toNat % 256 := by
  induction cs generalizing k with
  | nil => cases hc
  | cons x xs ih =>
    cases k with
    | zero =>
      obtain rfl : x = c := by simpa using hc
      exact charAt_packText_zero x xs
    | succ k =>
      rw [charAt_packText_succ x xs k (by omega)]
      exact ih (by omega) (by simpa using hc)

/-- Settles O57: the twelve bytes of the port hold the text, whose characters all have ASCII codes. -/
theorem toHexPacksTheTextAndItsLength : Obligations.ToHexPacksTheTextAndItsLength := by
  intro h ignHi ignB s
  obtain ⟨h3, h12⟩ := length_toHexChars s.params h
  have htlen := toNat_tlen_deliverText h12
  refine ⟨rfl, _, _, exec_toHex h ignHi ignB s, htlen, h3.trans_eq htlen.symm, htlen.trans_le h12, fun k c hc => ?_,
    fun k hk => charAt_packText_of_length_le (htlen.symm.trans_le hk)⟩
  obtain ⟨hk, -⟩ := List.getElem?_eq_some_iff.mp hc
  have hascii := toNat_lt_of_mem_textChars c (mem_textChars_of_mem_toHexChars (List.mem_of_getElem? hc))
  exact (toNat_charAt_packText (hk.trans_le h12) hc).trans (Nat.mod_eq_of_lt hascii)

/-! ### Trimming (R206 of 44_hex_formatter.md) -/

/-- Settles O58: RUN2 trims the numerals that end in two zeros, which are those of the multiples of 0x100 but 0. -/
theorem hexTrimChangesThreeMantissas : Obligations.HexTrimChangesThreeMantissas := by
  intro p q hp hq
  have hdigits := mantissaDigits_of_run2 hq
  refine ⟨fun m _ => mantissaDigits_of_none hp m, fun m hm => ?_, hdigits 0x100, hdigits 0x200, hdigits 0x300,
    hdigits 0x010, hdigits 0, ?_, ?_⟩
  · rw [mantissaDigits_of_none hp, mantissaDigits_run2_ne_digits_iff hq, two_le_trailingZeros_digits_iff hm]
  · rw [toHexChars_of_not_nan q (by decide), unsignedChars_of_finite q (by decide), hdigits]
    rfl
  · rw [toHexChars_of_not_nan q (by decide), unsignedChars_of_finite q (by decide), hdigits]
    rfl

/-! ### Reading the text back (R202 of 44_hex_formatter.md) -/

/-- Settles O56: the mantissa and the exponent are printed as numerals, which are read back. -/
theorem toHexOfFiniteValuesReadsBack : Obligations.ToHexOfFiniteValuesReadsBack := by
  intro p h hfin hmag hp
  have hm := man16_lt h
  have hk := natAbs_printedExponent_lt h
  have hn : isNan16 h = false := by simp [isNan16, hfin]
  obtain ⟨hzero, hminus⟩ := dec_no_leading_zero hk
  refine ⟨digits (man16 h), dec (printedExponent h), ?_, readNumber_digits hm, length_numeral_le 16 3 _,
    numeral_no_leading_zero le_rfl (hm.trans (by norm_num)), fun c hc => hexDigitChars_lowercase c (mem_digits hc), ?_,
    notMem_dec (by decide) (by decide) _, hzero, hminus⟩
  · rw [toHexChars_of_not_nan p hn, unsignedChars_of_finite p hfin, mantissaDigits_of_none hp]
    simp [signChars, implicitBitChar]
  · rw [readExponent_dec hk, printedExponent_of_ne_zero hmag]

/-! ### Different halves print differently (R200 to R205 of 44_hex_formatter.md) -/

theorem digits_injOn {m n : ℕ} (hm : m < 1024) (hn : n < 1024) (h : digits m = digits n) : m = n :=
  Option.some_inj.mp (by rw [← readNumber_digits hm, h, readNumber_digits hn])

theorem dec_injOn {k l : ℤ} (hk : k.natAbs < 100) (hl : l.natAbs < 100) (h : dec k = dec l) : k = l :=
  Option.some_inj.mp (by rw [← readExponent_dec hk, h, readExponent_dec hl])

theorem head?_unsignedChars (p : Params) (h : Half) :
    (unsignedChars p h).head? = if exp16 h = 31 then some 'I' else some '0' := by
  unfold unsignedChars
  split <;> rfl

theorem head?_unsignedChars_ne_minus (p : Params) (h : Half) : (unsignedChars p h).head? ≠ some '-' := by
  rw [head?_unsignedChars]
  split <;> decide

theorem head?_unsignedChars_eq_I_iff (p : Params) (h : Half) :
    (unsignedChars p h).head? = some 'I' ↔ exp16 h = 31 := by simp [head?_unsignedChars]

theorem signChars_append_inj {a b : Half} {cs ds : List Char} (hcs : cs.head? ≠ some '-') (hds : ds.head? ≠ some '-')
    (h : signChars a ++ cs = signChars b ++ ds) : sign16 a = sign16 b ∧ cs = ds := by
  unfold signChars at h
  cases ha : sign16 a <;> cases hb : sign16 b <;> rw [ha, hb] at h
  case false.false => exact ⟨rfl, h⟩
  case false.true => exact absurd (congrArg List.head? h) hcs
  case true.false => exact absurd (congrArg List.head? h).symm hds
  case true.true => exact ⟨rfl, List.tail_eq_of_cons_eq h⟩

/-- The mantissa and the exponent are told apart by the `p` between them. -/
theorem finite_fields_of_unsignedChars_eq {p : Params} (hp : p.hexTrim = .none) {a b : Half} (ha : exp16 a ≠ 31)
    (hb : exp16 b ≠ 31) (h : unsignedChars p a = unsignedChars p b) :
    (exp16 a = 0 ↔ exp16 b = 0) ∧ man16 a = man16 b ∧ printedExponent a = printedExponent b := by
  rw [unsignedChars_of_finite p ha, unsignedChars_of_finite p hb, mantissaDigits_of_none hp,
    mantissaDigits_of_none hp] at h
  simp only [List.cons.injEq, true_and] at h
  obtain ⟨hbit, hrest⟩ := h
  obtain ⟨hdigits, -, hdec⟩ := (List.append_cons_inj_of_notMem (notMem_digits (by decide) _)
    (notMem_dec (by decide) (by decide) _)).mp hrest
  refine ⟨?_, digits_injOn (man16_lt a) (man16_lt b) hdigits,
    dec_injOn (natAbs_printedExponent_lt a) (natAbs_printedExponent_lt b) hdec⟩
  rw [← implicitBitChar_eq_zero_iff, hbit, implicitBitChar_eq_zero_iff]

/-- The exponent field is read off the implicit bit and the printed exponent. -/
theorem exp16_eq_of_printedExponent_eq {a b : Half} (h0 : exp16 a = 0 ↔ exp16 b = 0)
    (h : printedExponent a = printedExponent b) : exp16 a = exp16 b := by
  have hmaga := mag16_eq_fields a
  have hmagb := mag16_eq_fields b
  by_cases ha : exp16 a = 0
  · rw [ha, h0.mp ha]
  · have hb := h0.not.mp ha
    rw [printedExponent_of_ne_zero (by omega), printedExponent_of_ne_zero (by omega), if_neg ha, if_neg hb] at h
    omega

theorem mag16_eq_of_unsignedChars_eq {p : Params} (hp : p.hexTrim = .none) {a b : Half} (ha : isNan16 a = false)
    (hb : isNan16 b = false) (h : unsignedChars p a = unsignedChars p b) : mag16 a = mag16 b := by
  have h31 : exp16 a = 31 ↔ exp16 b = 31 := by
    rw [← head?_unsignedChars_eq_I_iff p, h, head?_unsignedChars_eq_I_iff]
  by_cases hinf : exp16 a = 31
  · rw [mag16_of_infinity hinf ha, mag16_of_infinity (h31.mp hinf) hb]
  · obtain ⟨hbit, hman, hexponent⟩ := finite_fields_of_unsignedChars_eq hp hinf (h31.not.mp hinf) h
    rw [mag16_eq_fields, mag16_eq_fields, hman, exp16_eq_of_printedExponent_eq hbit hexponent]

/-- Settles O60: the sign and the text after it are read off, and give the sign and the magnitude back. -/
theorem toHexDistinguishesHalves : Obligations.ToHexDistinguishesHalves := by
  intro p a b hp ha hb h
  rw [toHexChars_of_not_nan p ha, toHexChars_of_not_nan p hb] at h
  obtain ⟨hsign, hrest⟩ := signChars_append_inj (head?_unsignedChars_ne_minus p a)
    (head?_unsignedChars_ne_minus p b) h
  exact half_ext hsign (mag16_eq_of_unsignedChars_eq hp ha hb hrest)

end Sys2Proof.Machine
end

section
/-! PROOFS of the exceptions family (60_exceptions.md). A step on a presented word answers with the unit function of
R76 (30_encoding.md), which reads the parameters and the word alone, so an illegal word leaves no trace and no word
traps; and each operation with a half or binary32 result tells the NaNs among its operands from the rest. -/

namespace Sys2Proof.Machine

/-! ### Illegal words and traps (R221, R223 of 60_exceptions.md) -/

/-- A word presented by the host is driven, so the step answers it with the unit function of R76 (30_encoding.md). -/
theorem step_present (s : State) (w : ReqWord) :
    step (s.present w) = .next ((s.present w).respond (unit s.params w)) :=
  step_eq_respond_unit (s.present_undriven w)

/-- Nothing of an answer outlives the presentation and the answer of the next word. -/
theorem step_present_of_respond_present (s : State) (r : Response) (w w' : ReqWord) :
    step (((s.present w).respond r).present w') = step (s.present w') := by
  rw [step_present, step_present]
  rfl

/-- Settles O10: the illegal word is answered with ILL, and the next word's answer overwrites that answer. -/
theorem illIsNotSticky : Obligations.IllIsNotSticky := by
  intro s w w' hillegal
  have hill : step (s.present w) = .next ((s.present w).respond illegalResponse) := by
    rw [step_present, unit_of_illegal s.params hillegal]
  refine ⟨_, hill, rfl, _, step_present s w', ?_⟩
  rw [step_present_of_respond_present, step_present]

/-- Settles O11: every instruction responds, and a step refuses only a word with an undriven bit. -/
theorem noInputTraps : Obligations.NoInputTraps :=
  ⟨exec_responds, fun _ hdriven => ⟨_, step_eq_respond_unit hdriven⟩⟩

/-! ### NaN results (R222 of 60_exceptions.md, R109 of 40_codec.md) -/

theorem isNan32_iff_fields (f : Single) : isNan32 f = true ↔ exp32 f = 255 ∧ man32 f ≠ 0 := by simp [isNan32]

theorem isNan16_toHalf {p : Params} (hp : p.wellFormed = true) (f : Single) : isNan16 (toHalf p f) = isNan32 f := by
  cases hf : isNan32 f with
  | true =>
    obtain ⟨he, hm⟩ := (isNan32_iff_fields f).mp hf
    rw [toHalf_of_nan p he hm]
    exact hp
  | false => exact (isNan16_eq_false_iff _).mpr (mag16_toHalf_le p hf)

/-- TOHALF gives back a half that is no NaN, which it would not do if TOFLOAT had made it one. -/
theorem isNan32_toFloat (p : Params) (h : Half) : isNan32 (toFloat p h) = isNan16 h := by
  cases hn : isNan16 h with
  | true => rw [toFloat_of_nan p hn, isNan32_toFloatNanOf]
  | false => rw [← isNan16_toHalf wellFormed_default, toHalf_toFloat p _ hn, hn]

/-- A result that is QNAN16 for a NaN operand and otherwise one of the operands is a NaN exactly for a NaN operand. -/
theorem isNan16_of_qnan16_or_operand {p : Params} (hp : p.wellFormed = true) {a b r : Half}
    (hnan : isNan16 a = true ∨ isNan16 b = true → r = p.qnan16)
    (hoperand : isNan16 a = false → isNan16 b = false → r = a ∨ r = b) : isNan16 r = (isNan16 a || isNan16 b) := by
  obtain h | ⟨ha, hb, -⟩ := nan_or_tkey_le a b
  · rw [hnan h, (Bool.or_eq_true _ _).mpr h]
    exact hp
  · rw [ha, hb]
    obtain rfl | rfl := hoperand ha hb
    · exact ha
    · exact hb

theorem isNan16_minHalf {p : Params} (hp : p.wellFormed = true) (a b : Half) :
    isNan16 (minHalf p a b) = (isNan16 a || isNan16 b) :=
  isNan16_of_qnan16_or_operand hp (minHalf_of_nan p) fun ha hb => minHalf_of_not_nan p ha hb ▸ ite_eq_or_eq _ _ _

theorem isNan16_maxHalf {p : Params} (hp : p.wellFormed = true) (a b : Half) :
    isNan16 (maxHalf p a b) = (isNan16 a || isNan16 b) :=
  isNan16_of_qnan16_or_operand hp (maxHalf_of_nan p) fun ha hb => maxHalf_of_not_nan p ha hb ▸ ite_eq_or_eq _ _ _

/-- Settles O47: operation by operation. -/
theorem nansComeOnlyFromNans : Obligations.NansComeOnlyFromNans := fun p hp =>
  ⟨isNan16_toHalf hp, isNan32_toFloat p, isNan16_minHalf hp, isNan16_maxHalf hp, isNan16_roundHalf p⟩

end Sys2Proof.Machine
end

section
/-! PROOFS of the reset and hazards family (70_reset_and_hazards.md). An undriven bit of REQ is the one thing that
stops a step, since a driven word is always answered. -/

namespace Sys2Proof.Machine

/-- A step answers every driven word, so it refuses none. -/
theorem step_ne_refused {s : State} (hdriven : s.undriven = 0) (e : Refusal) : step s ≠ .refused e := by
  rw [step_eq_respond_unit hdriven]
  exact nofun

/-- Settles O15: of the two things a step can do, it refuses an undriven word and answers a driven one. -/
theorem undrivenRequestIsRefused : Obligations.UndrivenRequestIsRefused := by
  intro s
  obtain ⟨hundriven, hrefused⟩ | ⟨hdriven, -⟩ := step_cases s
  · exact iff_of_true hrefused hundriven
  · exact iff_of_false (step_ne_refused hdriven _) (not_not_intro hdriven)

end Sys2Proof.Machine
end
